-- ==== Sys2Proof/Word.lean ====
section
/-! DEFINITION. The engine's word, byte and frame types. Every word is unsigned (00_scope.md R5, R7). -/

namespace Sys2Proof

/-- A 32-bit word, bit 31 the most significant (R5 WORD, R7). -/
abbrev Word := BitVec 32

/-- A byte, 0..255 (R7). -/
abbrev Byte := BitVec 8

/-- A frame: a finite byte sequence transferred whole over a port (30_encoding.md R70). -/
abbrev Frame := List Byte

end Sys2Proof
end

