-- ==== Sys2Proof/Syntax.lean ====
section
/-! DEFINITION. The instructions: one constructor per row of spec/opcode_table.json. -/

namespace Sys2Proof

/-- Host commands (formats P, Z), micro-operations (format U) and functional units (format F).
A micro-operation's operands stand in the state (PHASE, BI, T select it, 30_encoding.md R79);
a functional unit's operands are wires (R80) and stand here. -/
inductive Instr where
  /-- HASH, frame 01 and payload (R201). -/
  | hash (payload : List Byte)
  /-- UPDATE, frame 02 and payload (R202). With the empty payload it is REHASH (R82). -/
  | update (payload : List Byte)
  /-- DIGEST, frame 03 (R203). -/
  | digest
  /-- STATUS, frame 04 (R204). -/
  | status
  /-- ACCEPT, phase code 0 (R200). -/
  | accept
  /-- PAD, phase code 1 (R120). -/
  | pad
  /-- SEED, phase code 2 (R160). -/
  | seed
  /-- LDBLK, phase code 3 (R124). -/
  | ldblk
  /-- LDW, phase code 4 (R140). -/
  | ldw
  /-- EXPAND, phase code 5 (R141). -/
  | expand
  /-- INITV, phase code 6 (R161). -/
  | initv
  /-- ROUND, phase code 7 (R162). -/
  | round
  /-- CHAIN, phase code 8 (R167). -/
  | chain
  /-- SERIALIZE, phase code 9 (R190). -/
  | serialize
  /-- ACCEPT.HALT, phase code 15, the halted form of ACCEPT (R248). -/
  | acceptHalt
  /-- DETECT, unit select 000 (R100). -/
  | detect
  /-- REV, unit select 010: reverse the first `length` bytes of LANE (R101). -/
  | rev (length : Nat)
  /-- ROTR, unit select 100: rotate `x` right by `amount` bits (R102). -/
  | rotr (x : Word) (amount : Nat)
  /-- ROTL, unit select 101: rotate `x` left by `amount` bits (R103). -/
  | rotl (x : Word) (amount : Nat)
  deriving DecidableEq, Repr

end Sys2Proof
end

