-- ==== Sys2Proof/WellFormed.lean ====
section
/-! DEFINITION. Which instructions stand inside the domain the spec gives their operands. -/

namespace Sys2Proof

/-- REV needs a length of at least 1 and works on LANE's 8 bytes (R101, R31); ROTR and ROTL need an
amount of at most 31 (R102, R103, R275). Every payload is legal (R72). -/
def Instr.wellFormed : Instr → Bool
  | .hash _ => true
  | .update _ => true
  | .digest => true
  | .status => true
  | .accept => true
  | .pad => true
  | .seed => true
  | .ldblk => true
  | .ldw => true
  | .expand => true
  | .initv => true
  | .round => true
  | .chain => true
  | .serialize => true
  | .acceptHalt => true
  | .detect => true
  | .rev length => decide (1 ≤ length) && decide (length ≤ 8)
  | .rotr _ amount => decide (amount ≤ 31)
  | .rotl _ amount => decide (amount ≤ 31)

end Sys2Proof
end

