-- ==== Sys2Proof/Decode.lean ====
section
/-! DEFINITION. Decoding and encoding of the three code spaces of spec/opcode_table.json: command
frames (30_encoding.md R70 to R76), phase codes (R79) and functional-unit selects (R80). -/

namespace Sys2Proof

/-- What selects an instruction. The three spaces overlap in value, so the space is part of the code. -/
inductive Code where
  /-- A command frame as it stands on CMD (formats P and Z). -/
  | frame (bytes : Frame)
  /-- The 4-bit PHASE code (format U). -/
  | phase (code : BitVec 4)
  /-- The 3-bit select of a functional unit (format F: unit number in bits 2..1, direction in bit 0)
  with its operands, which are wires and not encoded: a word, and a length or rotation amount. -/
  | unit (select : BitVec 3) (word : Word) (amount : Nat)
  deriving DecidableEq, Repr

/-- Why a code is refused. -/
inductive Reject where
  /-- R74 (a): a frame of length 0. -/
  | emptyFrame
  /-- R74 (b): byte 0 is 0x00 or 0x05..0xFF. -/
  | unassignedOpcode
  /-- R74 (c): byte 0 is 0x03 or 0x04 and the length is not 1. -/
  | trailingBytes
  /-- R29: phase codes 10..14. -/
  | reservedPhase
  /-- R80: selects 001, 011, 110, 111. -/
  | unusedUnit
  /-- R275: a length or amount outside the unit's domain. -/
  | operandOutOfDomain
  deriving DecidableEq, Repr

/-- The result of decoding: an instruction, or a refusal by name. -/
inductive Decoded (α : Type) where
  | ok (a : α)
  | illegal (why : Reject)
  deriving DecidableEq, Repr

/-- A decoded command frame (the glossary's "command"). -/
inductive Command where
  | hash (payload : List Byte)
  | update (payload : List Byte)
  | digest
  | status
  deriving DecidableEq, Repr

/-- The instruction a command is. -/
def commandInstr : Command → Instr
  | .hash p => .hash p
  | .update p => .update p
  | .digest => .digest
  | .status => .status

/-- Decode of R75, on a frame of any length. -/
def decodeFrame : Frame → Decoded Command
  | [] => .illegal .emptyFrame
  | op :: payload =>
    if op = 0x01 then .ok (.hash payload)
    else if op = 0x02 then .ok (.update payload)
    else if op = 0x03 then
      if payload = [] then .ok .digest else .illegal .trailingBytes
    else if op = 0x04 then
      if payload = [] then .ok .status else .illegal .trailingBytes
    else .illegal .unassignedOpcode

/-- Encode of R75. -/
def encodeFrame : Command → Frame
  | .hash p => 0x01 :: p
  | .update p => 0x02 :: p
  | .digest => [0x03]
  | .status => [0x04]

/-- The micro-operation a phase code selects (R29, R79). -/
def decodePhase (code : BitVec 4) : Decoded Instr :=
  if code = 0 then .ok .accept
  else if code = 1 then .ok .pad
  else if code = 2 then .ok .seed
  else if code = 3 then .ok .ldblk
  else if code = 4 then .ok .ldw
  else if code = 5 then .ok .expand
  else if code = 6 then .ok .initv
  else if code = 7 then .ok .round
  else if code = 8 then .ok .chain
  else if code = 9 then .ok .serialize
  else if code = 15 then .ok .acceptHalt
  else .illegal .reservedPhase

/-- The functional unit a select names (R80), its operands checked against its domain (R275). -/
def decodeUnit (select : BitVec 3) (word : Word) (amount : Nat) : Decoded Instr :=
  if select = 0b000 then .ok .detect
  else if select = 0b010 then
    if 1 ≤ amount ∧ amount ≤ 8 then .ok (.rev amount) else .illegal .operandOutOfDomain
  else if select = 0b100 then
    if amount ≤ 31 then .ok (.rotr word amount) else .illegal .operandOutOfDomain
  else if select = 0b101 then
    if amount ≤ 31 then .ok (.rotl word amount) else .illegal .operandOutOfDomain
  else .illegal .unusedUnit

/-- Decoding, total on every code. -/
def decode : Code → Decoded Instr
  | .frame f =>
    match decodeFrame f with
    | .ok c => .ok (commandInstr c)
    | .illegal why => .illegal why
  | .phase code => decodePhase code
  | .unit select word amount => decodeUnit select word amount

/-- The code of an instruction, from the tables of R73, R79 and R80. -/
def encode : Instr → Code
  | .hash p => .frame (encodeFrame (.hash p))
  | .update p => .frame (encodeFrame (.update p))
  | .digest => .frame (encodeFrame .digest)
  | .status => .frame (encodeFrame .status)
  | .accept => .phase 0
  | .pad => .phase 1
  | .seed => .phase 2
  | .ldblk => .phase 3
  | .ldw => .phase 4
  | .expand => .phase 5
  | .initv => .phase 6
  | .round => .phase 7
  | .chain => .phase 8
  | .serialize => .phase 9
  | .acceptHalt => .phase 15
  | .detect => .unit 0b000 0 0
  | .rev length => .unit 0b010 0 length
  | .rotr x amount => .unit 0b100 x amount
  | .rotl x amount => .unit 0b101 x amount

/-- The number of whole bytes in `nbits` bits of `w`, the byte of bits 7..0 first: the frame whose
first byte is the table's opcode byte. -/
def frameOfBits (nbits w : Nat) : Frame :=
  (List.range (nbits / 8)).map (fun k => BitVec.ofNat 8 (w / 2 ^ (8 * k)))

/-- The instruction a decoding names, if any. -/
def Decoded.toOption {α : Type} : Decoded α → Option α
  | .ok a => some a
  | .illegal _ => none

/-- The instruction the decoder reads from table bits `w`. Three bits are a functional-unit select
(its operands, which the table gives no bits, are taken as the word 0 and the amount 4, inside every
unit's domain); four bits are a phase code; whole bytes are a command frame, and where no command
has that frame, a phase code written in a byte (the table's formats share values: log entry 10). -/
def decodeTableWord (nbits w : Nat) : Option Instr :=
  if nbits = 3 then (decode (.unit (BitVec.ofNat 3 w) 0 4)).toOption
  else if nbits = 4 then (decode (.phase (BitVec.ofNat 4 w))).toOption
  else
    match decode (.frame (frameOfBits nbits w)) with
    | .ok i => some i
    | .illegal _ =>
      if nbits = 8 ∧ w < 16 then (decode (.phase (BitVec.ofNat 4 w))).toOption else none

end Sys2Proof
end

