-- ==== Sys2Proof/Config.lean ====
section
/-! DEFINITION. The two parameters the spec leaves open (00_scope.md R6; decisions D4, D5). -/

namespace Sys2Proof

/-- The parameters of R6. A state carries them (log entry 4), so every statement about all states
is a statement about all their values. -/
structure Params where
  /-- PLATFORM_LE: true when the platform stores integers little-endian. -/
  platformLE : Bool
  /-- MAXBYTES: the largest message length in bytes, 0 <= MAXBYTES <= 2^61 - 1. -/
  maxBytes : Fin (2 ^ 61)
  deriving DecidableEq, Repr

/-- PLATFORM_LE of the engine that `State.reset` describes. The spec fixes no value (U5), so it has
no body: nothing can be proved of it (log entry 4). -/
opaque Config.platformLE : Bool

/-- MAXBYTES of the engine that `State.reset` describes: the default R6 states (log entry 4). -/
def Config.maxBytes : Fin (2 ^ 61) := ⟨2 ^ 61 - 1, by decide⟩

/-- The parameters of the engine that `State.reset` describes. -/
def Config.params : Params := ⟨Config.platformLE, Config.maxBytes⟩

end Sys2Proof
end

