-- ==== Sys2Proof/Machine/State.lean ====
section
/-! DEFINITION. The state of one engine (10_state.md R20), the reasons a step can stop, and the state
after reset (R39, 70_reset_and_hazards.md R270). -/

namespace Sys2Proof.Machine

open Sys2Proof

/-- The sequencer's phases; the 4-bit code of each is `Phase.code` (R29). -/
inductive Phase where
  | idle | pad | seed | ldblk | ldw | expand | initv | round | chain | serialize | halt
  deriving DecidableEq, Repr

/-- The sticky fault code FAULT; the 4-bit value of each is `FaultCode.code` (R35, R241). -/
inductive FaultCode where
  | none | illegal | noDigest | tooLong
  deriving DecidableEq, Repr

/-- Which command a running computation belongs to. The model's own (log entry 2): SERIALIZE sends
"response of the command being executed" (R190), and no element of R20 records which that is. -/
inductive Running where
  | none | hash | update
  deriving DecidableEq, Repr

/-- The message store MSG: (index, byte) cells, in canonical form at exactly 0, 1, ..., MLEN-1 in
rising order. An index without a cell holds no byte (20_memory.md R50). -/
abbrev Memory := List Host.Cell

/-- Every element of R20, the two ports of R38, and the model's own fields (log entries 2, 3, 4). -/
structure State where
  /-- H[0..7], the Working State (R21). -/
  h : Vector Word 8
  /-- V[0..7] = a, b, c, d, e, f, g, h, the working variables (R22). -/
  v : Vector Word 8
  /-- W[0..63], the Message Schedule (R23). -/
  w : Vector Word 64
  /-- MSG[0..MLEN-1], the retained message (R26). -/
  msg : Memory
  /-- BITLEN (R27). -/
  bitlen : BitVec 64
  /-- NBLK, the number of blocks of the padded message (R28). -/
  nblk : Nat
  /-- BI, the index of the block in process (R28). -/
  bi : Nat
  /-- T, the schedule and round index, 7 bits, 0..64 (R20, R28). -/
  t : Fin 65
  /-- PHASE (R29). -/
  phase : Phase
  /-- BLK[0..63], the block buffer (R30). -/
  blk : Vector Byte 64
  /-- LANE[0..7], the normalizer's staging register (R31). -/
  lane : Vector Byte 8
  /-- DIGEST[0..63], ASCII characters (R32). -/
  digest : Vector Byte 64
  /-- LE, the detected byte order, true for little-endian (R34). -/
  le : Bool
  /-- FAULT (R35). -/
  fault : FaultCode
  /-- BUSY (R36). -/
  busy : Bool
  /-- DVALID (R36). -/
  dvalid : Bool
  /-- CMD: the command frames offered and not yet accepted, oldest first (R38). -/
  cmd : List Frame
  /-- RSP: the response frames sent and not yet taken, oldest first (R38). -/
  rsp : List Frame
  /-- The command of the running computation; the model's own (log entry 2). -/
  running : Running
  /-- The output of the rotate unit executed on its own; the model's own (log entry 3). -/
  unitOut : Word
  /-- PLATFORM_LE and MAXBYTES, written by nothing (R6, log entry 4). -/
  params : Params
  deriving DecidableEq, Repr

/-- Why the machine stops with a fault: an index outside a storage space, which R50 says no rule ever
produces, or a message longer than R127 lets any be. All are safe: they stop where the spec gives no
effect, in states no run reaches. -/
inductive Fault where
  /-- Raised by LDW (T > 15), EXPAND (T < 16 or T > 63) and ROUND (T > 63). Safe. -/
  | scheduleIndex
  /-- Raised by LDBLK when BI >= NBLK (R124's precondition). Safe. -/
  | blockIndex
  /-- Raised by LDBLK when MSG has no cell at an index below MLEN, that is, when the store is not in
  canonical form. Safe. -/
  | messageByte
  /-- Raised by PAD when MLEN >= 2^61, where 8 * MLEN does not fit BITLEN (R127, log entry 12). Safe. -/
  | bitLength
  /-- Raised by REV of a length above 8: LANE has 8 bytes (R31). Safe. -/
  | laneIndex
  deriving DecidableEq, Repr

/-- Why the machine refuses. -/
inductive Refusal where
  /-- Raised by exec's arm of an instruction that has no meaning yet. Safe. -/
  | notModelled (mnemonic : String)
  /-- Raised by ROTR and ROTL of an amount of 32 or more, whose treatment the spec says is `refuse`
  (93_implementation_defined.md U2). Safe. -/
  | rotateAmount
  /-- Raised by step when the PHASE code selects no micro-operation (R29, codes 10..14); no value of
  `Phase` has such a code. Safe. -/
  | reservedPhase
  deriving DecidableEq, Repr

/-- The state after reset of an engine with the given parameters: the values of R39, LE set by DETECT
(R270), and 0 in every element R39 calls unspecified (log entry 1). -/
def State.resetWith (params : Params) : State where
  h := Vector.replicate 8 0
  v := Vector.replicate 8 0
  w := Vector.replicate 64 0
  msg := []
  bitlen := 0
  nblk := 0
  bi := 0
  t := 0
  phase := .idle
  blk := Vector.replicate 64 0
  lane := Vector.replicate 8 0
  digest := Vector.replicate 64 0
  le := params.platformLE
  fault := .none
  busy := false
  dvalid := false
  cmd := []
  rsp := []
  running := .none
  unitOut := 0
  params := params

/-- The state after reset (R39, R271), for the parameters of `Config.params`. -/
def State.reset : State := State.resetWith Config.params

end Sys2Proof.Machine
end

