-- ==== Sys2Proof/Machine/Flags.lean ====
section
/-! DEFINITION. Phase and fault codes, the status register view and the handshake (10_state.md R29,
R33, R35, R36, R38). The engine has no arithmetic condition codes (R36). -/

namespace Sys2Proof.Machine

open Sys2Proof

/-- The 4-bit code of a phase (R29). -/
def Phase.code : Phase → BitVec 4
  | .idle => 0
  | .pad => 1
  | .seed => 2
  | .ldblk => 3
  | .ldw => 4
  | .expand => 5
  | .initv => 6
  | .round => 7
  | .chain => 8
  | .serialize => 9
  | .halt => 15

/-- The phases PAD to SERIALIZE, in which a HASH or UPDATE is being executed (R33, R206). -/
def Phase.computing : Phase → Bool
  | .idle => false
  | .pad => true
  | .seed => true
  | .ldblk => true
  | .ldw => true
  | .expand => true
  | .initv => true
  | .round => true
  | .chain => true
  | .serialize => true
  | .halt => false

/-- The 4-bit value of FAULT (R35, R241). -/
def FaultCode.code : FaultCode → BitVec 4
  | .none => 0
  | .illegal => 1
  | .noDigest => 2
  | .tooLong => 3

/-- MLEN, the number of bytes of the retained message (R26). -/
def State.mlen (s : State) : Nat := s.msg.length

/-- SR = BUSY + 2*DVALID + 4*LE + 16*FAULT + 256*PHASE (R33). -/
def State.sr (s : State) : Word :=
  BitVec.ofNat 32 (s.busy.toNat + 2 * s.dvalid.toNat + 4 * s.le.toNat
    + 16 * s.fault.code.toNat + 256 * s.phase.code.toNat)

/-- `ready`, offered on CMD: BUSY = 0 (R38). -/
def State.ready (s : State) : Bool := !s.busy

/-- The status byte of a fault response: 0x80 + code (R77, R78). -/
def faultStatus (c : FaultCode) : Byte := 0x80 + c.code.setWidth 8

/-- The status byte of an OK response (R78). -/
def okStatus : Byte := 0x00

end Sys2Proof.Machine
end

