-- ==== Sys2Proof/Machine/Ops.lean ====
section
/-! DEFINITION. The named operations: word functions (40_bitword_utilities.md, 42_message_schedule.md,
43_compression.md), the message store, the ports, fault entry and the reset event. -/

namespace Sys2Proof.Machine

open Sys2Proof

/-- The vector whose element k is `f k`. -/
def tabulate {α : Type} {n : Nat} (f : Fin n → α) : Vector α n :=
  ⟨(List.ofFn f).toArray, by simp⟩

/-- T + 1 (R28), for the T of a micro-operation that advances it: R206 has T count at most to 64. -/
def indexAfter (t : Fin 65) (h : t.val ≤ 63) : Fin 65 := ⟨t.val + 1, by omega⟩

/-! ### Word functions -/

/-- ROTR(x, n) by the source's formula, the left shift truncated to 32 bits (R102). -/
def rotateRight (x : Word) (n : Nat) : Word := (x >>> n) ||| (x <<< (32 - n))

/-- ROTL(x, n), the mirror (R103). -/
def rotateLeft (x : Word) (n : Nat) : Word := (x <<< n) ||| (x >>> (32 - n))

/-- SHR(x, n), the logical right shift (R104). -/
def shiftRight (x : Word) (n : Nat) : Word := x >>> n

/-- ADD32 of two words: addition modulo 2^32 (R105). Sums of more words nest it. -/
def add32 (x y : Word) : Word := x + y

/-- ssig0, the source's s0 (R142). -/
def ssig0 (x : Word) : Word := rotateRight x 7 ^^^ rotateRight x 18 ^^^ shiftRight x 3

/-- ssig1, the source's s1 (R143). -/
def ssig1 (x : Word) : Word := rotateRight x 17 ^^^ rotateRight x 19 ^^^ shiftRight x 10

/-- bsig1, the source's S1 (R163). -/
def bsig1 (x : Word) : Word := rotateRight x 6 ^^^ rotateRight x 11 ^^^ rotateRight x 25

/-- bsig0, the source's S0 (R165). -/
def bsig0 (x : Word) : Word := rotateRight x 2 ^^^ rotateRight x 13 ^^^ rotateRight x 22

/-- Ch (R164). -/
def ch (e f g : Word) : Word := (e &&& f) ^^^ (~~~e &&& g)

/-- Maj (R166). -/
def maj (a b c : Word) : Word := (a &&& b) ^^^ (a &&& c) ^^^ (b &&& c)

/-- The register update of one round, all right-hand sides on the old values (R162); `k` is K[T] and
`w` is W[T]. -/
def roundStep (v : Vector Word 8) (k w : Word) : Vector Word 8 :=
  let temp1 := add32 (add32 (add32 (add32 v[7] (bsig1 v[4])) (ch v[4] v[5] v[6])) k) w
  let temp2 := add32 (bsig0 v[0]) (maj v[0] v[1] v[2])
  #v[add32 temp1 temp2, v[0], v[1], v[2], add32 v[3] temp1, v[4], v[5], v[6]]

/-- W[T] from the four earlier words it is derived from (R141). -/
def expandWord (w16 w15 w7 w2 : Word) : Word :=
  add32 (add32 (add32 w16 (ssig0 w15)) w7) (ssig1 w2)

/-- Word by word ADD32 of two files of eight (R167). -/
def addWords (x y : Vector Word 8) : Vector Word 8 :=
  #v[add32 x[0] y[0], add32 x[1] y[1], add32 x[2] y[2], add32 x[3] y[3],
    add32 x[4] y[4], add32 x[5] y[5], add32 x[6] y[6], add32 x[7] y[7]]

/-! ### Bytes of integers, most significant first -/

/-- The `n` bytes of `v`, most significant first (BE32, BE64 of R200). For BE64(MLEN) the spec gives no
bytes where MLEN >= 2^64, which R77 excludes; here the high ones are dropped (log entry 12). -/
def bigEndian (n v : Nat) : List Byte :=
  (List.range n).map (fun k => BitVec.ofNat 8 (v / 2 ^ (8 * (n - 1 - k))))

/-- HEXCHAR, one 4-bit value as its lowercase ASCII character (R192). -/
def hexChar (d : BitVec 4) : Byte :=
  if d.toNat ≤ 9 then BitVec.ofNat 8 (0x30 + d.toNat) else BitVec.ofNat 8 (0x61 + (d.toNat - 10))

/-- Character k of HEX8(x): the digit of bits 31-4k .. 28-4k (R190, R191). -/
def hexDigit (x : Word) (k : Nat) : Byte := hexChar (x.extractLsb' (28 - 4 * k) 4)

/-- The 64 characters of eight words, `h0` first (R190). -/
def hexDigest (h : Vector Word 8) : Vector Byte 64 :=
  tabulate (fun j => hexDigit h[j.val / 8] (j.val % 8))

/-! ### The message store -/

/-- The canonical form: cells at exactly 0, 1, ..., MLEN-1 in rising order (R26, R50). -/
def Memory.wf (m : Memory) : Bool := m.map Prod.fst == List.range m.length

/-- MemRead(MSG, i, 1) (R10): no value where no byte is stored. -/
def Memory.read (m : Memory) (i : Nat) : Option Byte := m.lookup i

/-- The cells of the bytes `p` at `base`, `base + 1`, ... -/
def cellsAt (base : Nat) : List Byte → Memory
  | [] => []
  | b :: p => (base, b) :: cellsAt (base + 1) p

/-- MSG <- p (R200, HASH). -/
def Memory.assign (p : List Byte) : Memory := cellsAt 0 p

/-- MSG <- MSG ‖ p, written at MLEN (R63, R200, UPDATE). -/
def Memory.append (m : Memory) (p : List Byte) : Memory := m ++ cellsAt m.length p

/-- The bytes of the store in index order. -/
def Memory.bytes (m : Memory) : List Byte := m.map Prod.snd

/-! ### Ports, fault entry, reset -/

/-- send(RSP, f) (R10). -/
def State.send (s : State) (f : Frame) : State := { s with rsp := s.rsp ++ [f] }

/-- `raise F_X`: FAULT takes the code, PHASE becomes HALT, the 1-byte response 0x80 + code is sent,
nothing else changes (60_exceptions.md R247). -/
def State.raise (s : State) (c : FaultCode) : State :=
  { s with fault := c, phase := .halt }.send [faultStatus c]

/-- The answer of HALT to any frame but STATUS: 0x80 + FAULT, no state changes (R248). -/
def State.answerHalted (s : State) : State := s.send [faultStatus s.fault]

/-- The frame stays, or is put back, at the head of CMD: it waits and is not lost (R38, U10). -/
def State.hold (s : State) (f : Frame) : State := { s with cmd := f :: s.cmd }

/-- The reset event, at any time (70_reset_and_hazards.md R270): the only exit from HALT. -/
def State.hostReset (s : State) : State := State.resetWith s.params

/-- The host offers one whole frame on CMD (R38, R273). -/
def State.hostOffer (s : State) (f : Frame) : State := { s with cmd := s.cmd ++ [f] }

/-- The host takes the oldest response frame, if there is one (R12, R273). -/
def State.hostTake (s : State) : Option Frame × State := (s.rsp.head?, { s with rsp := s.rsp.tail })

/-- The acceptance of HASH(p) that passes its length check (R200). -/
def State.startHash (s : State) (p : List Byte) : State :=
  { s with msg := Memory.assign p, busy := true, dvalid := false, phase := .pad, running := .hash }

/-- The acceptance of UPDATE(p) that passes its length check (R200). -/
def State.startUpdate (s : State) (p : List Byte) : State :=
  { s with msg := s.msg.append p, busy := true, dvalid := false, phase := .pad, running := .update }

/-- The OK response that carries DIGEST (R77). -/
def State.digestResponse (s : State) : Frame := okStatus :: s.digest.toList

/-- The response of STATUS: x"00" ‖ BE32(SR) ‖ BE64(MLEN) (R77, R204). -/
def State.statusResponse (s : State) : Frame :=
  okStatus :: (bigEndian 4 s.sr.toNat ++ bigEndian 8 s.mlen)

end Sys2Proof.Machine
end

