-- ==== Sys2Proof/Machine/Operands.lean ====
section
/-! DEFINITION. How micro-operations read their operands: the native lane (20_memory.md R52), the
byte-order normalizer (40_bitword_utilities.md R101, R107, R108) and the padded message
(41_preprocessing.md R120 to R124). -/

namespace Sys2Proof.Machine

open Sys2Proof

/-! ### LANE -/

/-- The integer of a byte sequence, most significant byte first. -/
def bigEndianValue (b : List Byte) : Nat := b.foldl (fun a x => a * 256 + x.toNat) 0

/-- NativeRead(n): the first n bytes of LANE as an integer in the platform's order (R52); the
little-endian reading is the big-endian reading of the bytes in reverse. -/
def nativeRead (le : Bool) (n : Nat) (lane : Vector Byte 8) : Nat :=
  bigEndianValue (if le then (lane.toList.take n).reverse else lane.toList.take n)

/-- NativeWrite(n, x): the n bytes of an integer into LANE in the platform's order; bytes n and above
keep their values (R52). -/
def nativeWrite (le : Bool) (n : Nat) (x : Nat) (lane : Vector Byte 8) : Vector Byte 8 :=
  tabulate (fun k =>
    if k.val < n then BitVec.ofNat 8 (x / 2 ^ (8 * (if le then k.val else n - 1 - k.val))) else lane[k])

/-- REV(n) on LANE: bytes n and above are not touched (R101). -/
def reverseLane (n : Nat) (h : n ≤ 8) (lane : Vector Byte 8) : Vector Byte 8 :=
  tabulate (fun k => if hk : k.val < n then lane[n - 1 - k.val] else lane[k])

/-- MemWrite(LANE, 0, 4, b). -/
def stage4 (b : Vector Byte 4) (lane : Vector Byte 8) : Vector Byte 8 :=
  tabulate (fun k => if h : k.val < 4 then b[k.val] else lane[k])

/-- LANE after NORM32 has staged its four bytes and reversed them on a little-endian platform (R107). -/
def norm32Lane (le : Bool) (b : Vector Byte 4) (lane : Vector Byte 8) : Vector Byte 8 :=
  if le then reverseLane 4 (by decide) (stage4 b lane) else stage4 b lane

/-- NORM32(b), the word read back from LANE in native order (R107). -/
def norm32 (le : Bool) (b : Vector Byte 4) (lane : Vector Byte 8) : Word :=
  BitVec.ofNat 32 (nativeRead le 4 (norm32Lane le b lane))

/-- ENC64(x): the integer into LANE in native order, reversed on a little-endian platform; the result
is LANE's 8 bytes (R108). -/
def enc64 (le : Bool) (x : BitVec 64) (lane : Vector Byte 8) : Vector Byte 8 :=
  if le then reverseLane 8 (by decide) (nativeWrite le 8 x.toNat lane)
  else nativeWrite le 8 x.toNat lane

/-! ### Blocks -/

/-- MemRead(BLK, 4*T, 4) for T <= 15 (R63, R140). -/
def blockBytes (blk : Vector Byte 64) (t : Nat) (h : t ≤ 15) : Vector Byte 4 :=
  tabulate (fun j => blk[4 * t + j.val])

/-- The number of 64-byte blocks of the padded message of a message of `mlen` bytes (R120). -/
def blockCount (mlen : Nat) : Nat := (mlen + 8) / 64 + 1

/-- Whether PBYTE(i) is a trailer byte, the fourth case of R121. -/
def State.inTrailer (s : State) (i : Nat) : Bool :=
  decide (s.mlen < i) && decide (64 * s.nblk - 8 ≤ i)

/-- PBYTE(i) for i < 64*NBLK (R121). It has no value where MSG lacks the byte it reads. -/
def State.pbyte (s : State) (i : Nat) : Option Byte :=
  if i < s.mlen then s.msg.read i
  else if i = s.mlen then some 0x80
  else if i < 64 * s.nblk - 8 then some 0x00
  else (enc64 s.le s.bitlen s.lane)[i - (64 * s.nblk - 8)]?

/-- Block BI of the padded message (R124). -/
def State.readBlock (s : State) : Option (Vector Byte 64) :=
  let byte (k : Nat) := s.pbyte (64 * s.bi + k)
  if (List.range 64).all (fun k => (byte k).isSome) then
    some (tabulate (fun k => (byte k.val).getD 0))
  else none

/-- LANE after LDBLK: ENC64 has used it when the block holds a trailer byte, and then its last byte is
one (R121, R124). -/
def State.laneAfterBlock (s : State) : Vector Byte 8 :=
  if s.inTrailer (64 * s.bi + 63) then enc64 s.le s.bitlen s.lane else s.lane

end Sys2Proof.Machine
end

