-- ==== Sys2Proof/Machine/Digest.lean ====
section
/-! DEFINITION. The command level's closed forms: the padded message as a function of the message
(41_preprocessing.md R121), Sched (42_message_schedule.md R144), Compress (43_compression.md R168),
SHA256hex (44_digest_finalization.md R193) and Run (45_commands_and_sequencer.md R205). -/

namespace Sys2Proof.Machine

open Sys2Proof

/-- PBYTE(i) of the message `m`, i < 64 * NBLK (R121), the trailer being 8 * |m| as 8 bytes, most
significant first (R123). Of a message of 2^61 bytes or more, which R127 excludes and for which the spec
gives no trailer, the high bits of the length are dropped: the model's choice (log entry 12). -/
def paddedByte (m : List Byte) (i : Nat) : Byte :=
  if h : i < m.length then m[i]
  else if i = m.length then 0x80
  else if i < 64 * blockCount m.length - 8 then 0x00
  else BitVec.ofNat 8 (8 * m.length / 2 ^ (8 * (64 * blockCount m.length - 1 - i)))

/-- Block B_j of the padded message of `m` (R124, R193). -/
def messageBlock (m : List Byte) (j : Nat) : Vector Byte 64 :=
  tabulate (fun k => paddedByte m (64 * j + k.val))

/-- The big-endian word at byte offset 4*t of a block (R144, R51). -/
def blockWord (b : Vector Byte 64) (t : Nat) (h : t ≤ 15) : Word :=
  b[4 * t] ++ b[4 * t + 1] ++ b[4 * t + 2] ++ b[4 * t + 3]

/-- Sched(B)[t] once the words before it are listed in `w` (R144). -/
def scheduleWord (b : Vector Byte 64) (w : List Word) (t : Nat) : Word :=
  if h : t ≤ 15 then blockWord b t h
  else expandWord (w[t - 16]?.getD 0) (w[t - 15]?.getD 0) (w[t - 7]?.getD 0) (w[t - 2]?.getD 0)

/-- The first n words of Sched(B). -/
def scheduleList (b : Vector Byte 64) : Nat → List Word
  | 0 => []
  | n + 1 => scheduleList b n ++ [scheduleWord b (scheduleList b n) n]

theorem scheduleList_length (b : Vector Byte 64) (n : Nat) : (scheduleList b n).length = n := by
  induction n with
  | zero => rfl
  | succ n ih => simp [scheduleList, ih]

/-- Sched(B) (R144). -/
def schedule (b : Vector Byte 64) : Vector Word 64 :=
  ⟨(scheduleList b 64).toArray, by simp [scheduleList_length]⟩

/-- v_n of R168: the working variables after n rounds from `v`, n <= 64. -/
def rounds (w : Vector Word 64) (v : Vector Word 8) : Nat → Vector Word 8
  | 0 => v
  | n + 1 => if h : n < 64 then roundStep (rounds w v n) roundConstants[n] w[n] else rounds w v n

/-- Compress(S, B) (R168). -/
def compress (h : Vector Word 8) (b : Vector Byte 64) : Vector Word 8 :=
  addWords h (rounds (schedule b) h 64)

/-- The Working State after the first n blocks of the padded message of `m` (R168). -/
def hashState (m : List Byte) : Nat → Vector Word 8
  | 0 => initialHash
  | n + 1 => compress (hashState m n) (messageBlock m n)

/-- SHA256hex(m) (R193, which defines it for |m| <= MAXBYTES only; beyond 2^61 - 1 bytes see log
entry 12). -/
def sha256hex (m : List Byte) : Vector Byte 64 := hexDigest (hashState m (blockCount m.length))

/-- Run (R205), on a state whose retained message is `m` and whose command has been accepted: DIGEST,
DVALID, BUSY and PHASE, and what R205 says of the hidden state. LANE holds what its last use in the
last block leaves (log entry 7). No instruction applies it to a message of 2^61 bytes or more (log entry
12). -/
def State.runCommand (s : State) (m : List Byte) : State :=
  let n := blockCount m.length
  let last := messageBlock m (n - 1)
  let bits := BitVec.ofNat 64 (8 * m.length)
  { s with
    bitlen := bits
    nblk := n
    bi := n
    t := 64
    h := hashState m n
    v := rounds (schedule last) (hashState m (n - 1)) 64
    w := schedule last
    blk := last
    lane := norm32Lane s.le (blockBytes last 15 (by decide)) (enc64 s.le bits s.lane)
    digest := sha256hex m
    dvalid := true
    busy := false
    phase := .idle
    running := .none }

end Sys2Proof.Machine
end

