-- ==== Sys2Proof/Machine/Commands.lean ====
section
/-! DEFINITION. The host commands at the command level, each one atomic transition of an engine that
has taken the command's frame from CMD (45_commands_and_sequencer.md R201 to R205; 00_scope.md R11). -/

namespace Sys2Proof.Machine

open Sys2Proof

/-- HASH(p) would exceed the store (60_exceptions.md R244). -/
def State.hashTooLong (s : State) (p : List Byte) : Bool := decide (s.params.maxBytes.val < p.length)

/-- UPDATE(p) would exceed the store (R244). -/
def State.updateTooLong (s : State) (p : List Byte) : Bool :=
  decide (s.params.maxBytes.val < s.mlen + p.length)

/-- Whether the engine accepts a frame: BUSY = 0 and PHASE is IDLE or HALT (R36, R200). -/
def State.accepting (s : State) : Bool := s.ready && !s.phase.computing

/-- A command other than STATUS: in IDLE its own effect, in HALT the answer 0x80 + FAULT (R248), and
while the engine computes none, its frame waiting on CMD (R38, log entry 8). -/
def State.command (s : State) (c : Command) (effect : State → State) : State :=
  if s.accepting then
    if s.phase = .halt then s.answerHalted else effect s
  else s.hold (encodeFrame c)

/-- HASH(p) in IDLE (R201). -/
def State.hashEffect (p : List Byte) (s : State) : State :=
  if s.hashTooLong p then s.raise .tooLong
  else
    let t := (s.startHash p).runCommand p
    t.send t.digestResponse

/-- UPDATE(p) in IDLE (R202): the whole of MSG ‖ p from IV again. -/
def State.updateEffect (p : List Byte) (s : State) : State :=
  if s.updateTooLong p then s.raise .tooLong
  else ((s.startUpdate p).runCommand (s.msg.bytes ++ p)).send [okStatus]

/-- DIGEST in IDLE (R203). -/
def State.digestEffect (s : State) : State :=
  if s.dvalid then s.send s.digestResponse else s.raise .noDigest

/-- HASH (R201). -/
def execHash (payload : List Byte) (s : State) : Host.Outcome State Fault Refusal :=
  .next (s.command (.hash payload) (State.hashEffect payload))

/-- UPDATE (R202). -/
def execUpdate (payload : List Byte) (s : State) : Host.Outcome State Fault Refusal :=
  .next (s.command (.update payload) (State.updateEffect payload))

/-- DIGEST (R203). -/
def execDigest (s : State) : Host.Outcome State Fault Refusal :=
  .next (s.command .digest State.digestEffect)

/-- STATUS, in IDLE and in HALT alike (R204). -/
def execStatus (s : State) : Host.Outcome State Fault Refusal :=
  .next (if s.accepting then s.send s.statusResponse else s.hold (encodeFrame .status))

end Sys2Proof.Machine
end

