-- ==== Sys2Proof/Machine/Accept.lean ====
section
/-! DEFINITION. ACCEPT and its halted form (45_commands_and_sequencer.md R200; 60_exceptions.md R246,
R248). A form that is not enabled does nothing: the frame waits on CMD (R38, R206). -/

namespace Sys2Proof.Machine

open Sys2Proof

/-- ACCEPT in IDLE, on the state whose frame is removed: the case distinction of R200. HASH and UPDATE
only start here; SERIALIZE sends their response. -/
def State.dispatch (s : State) : Decoded Command → State
  | .illegal _ => s.raise .illegal
  | .ok (.hash p) => if s.hashTooLong p then s.raise .tooLong else s.startHash p
  | .ok (.update p) => if s.updateTooLong p then s.raise .tooLong else s.startUpdate p
  | .ok .digest => s.digestEffect
  | .ok .status => s.send s.statusResponse

/-- ACCEPT in HALT, on the state whose frame is removed (R200, R248). -/
def State.dispatchHalted (s : State) : Decoded Command → State
  | .ok .status => s.send s.statusResponse
  | .ok (.hash _) => s.answerHalted
  | .ok (.update _) => s.answerHalted
  | .ok .digest => s.answerHalted
  | .illegal _ => s.answerHalted

/-- The halted form of ACCEPT, enabled in HALT with a frame on CMD. -/
def execAcceptHalt (s : State) : Host.Outcome State Fault Refusal :=
  match s.cmd with
  | [] => .next s
  | f :: rest =>
    if s.ready = true ∧ s.phase = .halt then
      .next ({ s with cmd := rest }.dispatchHalted (decodeFrame f))
    else .next s

/-- ACCEPT, enabled in IDLE and in HALT with a frame on CMD; in HALT it is its halted form. -/
def execAccept (s : State) : Host.Outcome State Fault Refusal :=
  match s.cmd with
  | [] => .next s
  | f :: rest =>
    if s.ready = true ∧ s.phase = .idle then
      .next ({ s with cmd := rest }.dispatch (decodeFrame f))
    else execAcceptHalt s

end Sys2Proof.Machine
end

