-- ==== Sys2Proof/Machine/Compression.lean ====
section
/-! DEFINITION. The compression-round engine: SEED, INITV, ROUND, CHAIN (43_compression.md). -/

namespace Sys2Proof.Machine

open Sys2Proof

/-- SEED (R160). -/
def execSeed (s : State) : Host.Outcome State Fault Refusal :=
  .next { s with h := initialHash, phase := .ldblk }

/-- INITV (R161). -/
def execInitv (s : State) : Host.Outcome State Fault Refusal :=
  .next { s with v := s.h, t := 0, phase := .round }

/-- ROUND at index T, 0 <= T <= 63 (R162). -/
def execRound (s : State) : Host.Outcome State Fault Refusal :=
  if h : s.t.val ≤ 63 then
    .next { s with
      v := roundStep s.v roundConstants[s.t.val] s.w[s.t.val]
      t := indexAfter s.t h
      phase := if s.t.val + 1 = 64 then .chain else .round }
  else .fault .scheduleIndex

/-- CHAIN (R167). -/
def execChain (s : State) : Host.Outcome State Fault Refusal :=
  .next { s with
    h := addWords s.h s.v
    bi := s.bi + 1
    phase := if s.bi + 1 = s.nblk then .serialize else .ldblk }

end Sys2Proof.Machine
end

