-- ==== Sys2Proof/Machine/Preprocess.lean ====
section
/-! DEFINITION. The preprocessor: PAD, LDBLK (41_preprocessing.md). -/

namespace Sys2Proof.Machine

open Sys2Proof

/-- PAD (R120). Where 8 * MLEN does not fit BITLEN's 64 bits, which R127 excludes and for which the spec
gives no value and forbids a wrap, it stops: the model's choice (log entry 12). -/
def execPad (s : State) : Host.Outcome State Fault Refusal :=
  if s.mlen < 2 ^ 61 then
    .next { s with
      bitlen := BitVec.ofNat 64 (8 * s.mlen)
      nblk := blockCount s.mlen
      bi := 0
      phase := .seed }
  else .fault .bitLength

/-- LDBLK (R124), precondition BI < NBLK. -/
def execLdblk (s : State) : Host.Outcome State Fault Refusal :=
  if s.bi < s.nblk then
    match s.readBlock with
    | some b => .next { s with blk := b, lane := s.laneAfterBlock, t := 0, phase := .ldw }
    | none => .fault .messageByte
  else .fault .blockIndex

end Sys2Proof.Machine
end

