-- ==== Sys2Proof/Machine/Schedule.lean ====
section
/-! DEFINITION. The message-schedule expander: LDW, EXPAND (42_message_schedule.md). -/

namespace Sys2Proof.Machine

open Sys2Proof

/-- LDW at index T, 0 <= T <= 15 (R140). -/
def execLdw (s : State) : Host.Outcome State Fault Refusal :=
  if h : s.t.val ≤ 15 then
    let b := blockBytes s.blk s.t.val h
    .next { s with
      w := s.w.set s.t.val (norm32 s.le b s.lane)
      lane := norm32Lane s.le b s.lane
      t := indexAfter s.t (by omega)
      phase := if s.t.val + 1 = 16 then .expand else .ldw }
  else .fault .scheduleIndex

/-- EXPAND at index T, 16 <= T <= 63 (R141). -/
def execExpand (s : State) : Host.Outcome State Fault Refusal :=
  if h : 16 ≤ s.t.val ∧ s.t.val ≤ 63 then
    .next { s with
      w := s.w.set s.t.val
        (expandWord s.w[s.t.val - 16] s.w[s.t.val - 15] s.w[s.t.val - 7] s.w[s.t.val - 2])
      t := indexAfter s.t h.2
      phase := if s.t.val + 1 = 64 then .initv else .expand }
  else .fault .scheduleIndex

end Sys2Proof.Machine
end

