-- ==== Sys2Proof/Machine/Serializer.lean ====
section
/-! DEFINITION. The digest serializer: SERIALIZE (44_digest_finalization.md). -/

namespace Sys2Proof.Machine

open Sys2Proof

/-- The state with the response of the command being executed sent: DIGEST for HASH (R201), the status
byte alone for UPDATE (R202), none where no command is being executed (log entry 2). -/
def State.sendResult (s : State) : State :=
  match s.running with
  | .none => s
  | .hash => s.send s.digestResponse
  | .update => s.send [okStatus]

/-- SERIALIZE (R190). -/
def execSerialize (s : State) : Host.Outcome State Fault Refusal :=
  let t := { s with digest := hexDigest s.h, dvalid := true, busy := false, phase := .idle }.sendResult
  .next { t with running := .none }

end Sys2Proof.Machine
end

