-- ==== Sys2Proof/Machine/Units.lean ====
section
/-! DEFINITION. The functional units that have a select of their own: DETECT, REV, ROTR, ROTL
(40_bitword_utilities.md). The host cannot issue them (30_encoding.md R80); micro-operations use the
same functions. -/

namespace Sys2Proof.Machine

open Sys2Proof

/-- DETECT: LE <- PLATFORM_LE (R100). -/
def execDetect (s : State) : Host.Outcome State Fault Refusal :=
  .next { s with le := s.params.platformLE }

/-- REV(n) on LANE (R101). Length 0 reverses nothing, the source's "no-op" (U1, log entry 5). -/
def execRev (length : Nat) (s : State) : Host.Outcome State Fault Refusal :=
  if h : length ≤ 8 then .next { s with lane := reverseLane length h s.lane }
  else .fault .laneIndex

/-- ROTR(x, n) on the unit's output (R102, log entry 3); outside 0..31 refused (U2, log entry 6). -/
def execRotr (x : Word) (amount : Nat) (s : State) : Host.Outcome State Fault Refusal :=
  if amount ≤ 31 then .next { s with unitOut := rotateRight x amount } else .refused .rotateAmount

/-- ROTL(x, n) on the unit's output (R103, log entry 3); outside 0..31 refused (U2, log entry 6). -/
def execRotl (x : Word) (amount : Nat) (s : State) : Host.Outcome State Fault Refusal :=
  if amount ≤ 31 then .next { s with unitOut := rotateLeft x amount } else .refused .rotateAmount

end Sys2Proof.Machine
end

