-- ==== Sys2Proof/Machine/Dispatch.lean ====
section
/-! DEFINITION. One arm per row of spec/opcode_table.json. -/

namespace Sys2Proof.Machine

open Sys2Proof

def exec (i : Instr) (s : State) : Host.Outcome State Fault Refusal :=
  match i with
  -- host commands, command level
  | .hash payload => Sys2Proof.Machine.execHash payload s
  | .update payload => Sys2Proof.Machine.execUpdate payload s
  | .digest => Sys2Proof.Machine.execDigest s
  | .status => Sys2Proof.Machine.execStatus s
  -- micro-operations
  | .accept => Sys2Proof.Machine.execAccept s
  | .pad => Sys2Proof.Machine.execPad s
  | .seed => Sys2Proof.Machine.execSeed s
  | .ldblk => Sys2Proof.Machine.execLdblk s
  | .ldw => Sys2Proof.Machine.execLdw s
  | .expand => Sys2Proof.Machine.execExpand s
  | .initv => Sys2Proof.Machine.execInitv s
  | .round => Sys2Proof.Machine.execRound s
  | .chain => Sys2Proof.Machine.execChain s
  | .serialize => Sys2Proof.Machine.execSerialize s
  | .acceptHalt => Sys2Proof.Machine.execAcceptHalt s
  -- functional units
  | .detect => Sys2Proof.Machine.execDetect s
  | .rev length => Sys2Proof.Machine.execRev length s
  | .rotr x amount => Sys2Proof.Machine.execRotr x amount s
  | .rotl x amount => Sys2Proof.Machine.execRotl x amount s

end Sys2Proof.Machine
end

