-- ==== Sys2Proof/Machine/Fetch.lean ====
section
/-! DEFINITION. Placing an instruction where the next step takes it: a command's frame on CMD, a
micro-operation as the sequencer's position (PHASE, BI, T) (10_state.md R29; log entry 10). -/

namespace Sys2Proof.Machine

open Sys2Proof

/-- The frame at the head of CMD, with the sequencer where ACCEPT takes it. -/
def State.placeFrame (s : State) (f : Frame) : State :=
  { s with cmd := f :: s.cmd, phase := .idle, busy := false }

/-- The instruction where the next step takes it. ACCEPT and its halted form get a frame of one byte,
their phase code, since they run only when a frame is present; the halted form gets a recorded fault;
LDBLK and CHAIN get the first of one block, LDW, EXPAND and ROUND their first index. A functional unit
cannot be issued (R80): nothing is placed. -/
def State.place (s : State) : Instr → State
  | .hash p => s.placeFrame (encodeFrame (.hash p))
  | .update p => s.placeFrame (encodeFrame (.update p))
  | .digest => s.placeFrame (encodeFrame .digest)
  | .status => s.placeFrame (encodeFrame .status)
  | .accept => s.placeFrame [0x00]
  | .pad => { s with phase := .pad }
  | .seed => { s with phase := .seed }
  | .ldblk => { s with phase := .ldblk, bi := 0, nblk := 1 }
  | .ldw => { s with phase := .ldw, t := 0 }
  | .expand => { s with phase := .expand, t := 16 }
  | .initv => { s with phase := .initv }
  | .round => { s with phase := .round, t := 0 }
  | .chain => { s with phase := .chain, bi := 0, nblk := 1 }
  | .serialize => { s with phase := .serialize }
  | .acceptHalt =>
    { s with
      cmd := [0x0f] :: s.cmd
      phase := .halt
      busy := false
      fault := if s.fault = .none then .illegal else s.fault }
  | .detect => s
  | .rev _ => s
  | .rotr _ _ => s
  | .rotl _ _ => s

end Sys2Proof.Machine
end

