-- ==== Sys2Proof/Machine/Step.lean ====
section
/-! DEFINITION. One step of the engine: the micro-operation selected by PHASE
(45_commands_and_sequencer.md R206). In IDLE and HALT without a frame nothing happens. -/

namespace Sys2Proof.Machine

open Sys2Proof

/-- One step (R206): the PHASE code is decoded and the micro-operation it selects is executed. -/
def step (s : State) : Host.Outcome State Fault Refusal :=
  match decode (.phase s.phase.code) with
  | .ok i => exec i s
  | .illegal _ => .refused .reservedPhase

/-- The instruction with table bits `w` placed where the next step takes it (log entry 10); bits that
are no instruction are placed on CMD as the raw frame they are. -/
def State.withFetchWord (s : State) (nbits w : Nat) : State :=
  match decodeTableWord nbits w with
  | some i => s.place i
  | none => s.placeFrame (frameOfBits nbits w)

/-- `n` steps one after another, ending at the first that answers no next state. -/
def runSteps : Nat → State → Host.Outcome State Fault Refusal
  | 0, s => .next s
  | n + 1, s =>
    match step s with
    | .next t => runSteps n t
    | .fault r => .fault r
    | .refused r => .refused r

end Sys2Proof.Machine
end

