-- ==== Sys2Proof/Machine/CommandLevel.lean ====
section
/-! DEFINITION. The command level as a transition of its own (00_scope.md R11 (a)): one step takes one
frame and runs its command whole. That the sequencer agrees with it is R207. -/

namespace Sys2Proof.Machine

open Sys2Proof

/-- The answer to an illegal frame: F_ILLEGAL in IDLE (R242), 0x80 + FAULT in HALT (R248). -/
def State.rejectFrame (s : State) : State :=
  if s.phase = .halt then s.answerHalted else s.raise .illegal

/-- Take the oldest frame of CMD and execute the command it decodes to; nothing happens when there is
no frame or the engine does not accept one. -/
def commandStep (s : State) : Host.Outcome State Fault Refusal :=
  match s.cmd with
  | [] => .next s
  | f :: rest =>
    if s.accepting then
      match decodeFrame f with
      | .ok c => exec (commandInstr c) { s with cmd := rest }
      | .illegal _ => .next { s with cmd := rest }.rejectFrame
    else .next s

end Sys2Proof.Machine
end

