-- ==== Sys2Proof/Safety.lean ====
section
/-! DEFINITION. What holds of every state a run reaches: the bounds and relations of 10_state.md R20 to
R36 (`State.Inv`), and what the registers hold at each phase of a computation (`State.Tracks`). -/

namespace Sys2Proof.Machine

open Sys2Proof

/-- The bounds of the sequencer's position at each phase (R28, R50, R206). -/
def State.positionOk (s : State) : Bool :=
  match s.phase with
  | .idle => true
  | .pad => true
  | .seed => s.bi == 0 && decide (0 < s.nblk)
  | .ldblk => decide (s.bi < s.nblk)
  | .ldw => decide (s.bi < s.nblk) && decide (s.t.val ≤ 15)
  | .expand => decide (s.bi < s.nblk) && decide (16 ≤ s.t.val) && decide (s.t.val ≤ 63)
  | .initv => decide (s.bi < s.nblk) && s.t.val == 64
  | .round => decide (s.bi < s.nblk) && decide (s.t.val ≤ 63)
  | .chain => decide (s.bi < s.nblk) && s.t.val == 64
  | .serialize => s.bi == s.nblk && s.t.val == 64
  | .halt => true

/-- From SEED to SERIALIZE, BITLEN and NBLK are those of the retained message (R120). -/
def State.lengthsOk (s : State) : Bool :=
  !(s.phase.computing && s.phase != .pad)
    || (s.bitlen.toNat == 8 * s.mlen && s.nblk == blockCount s.mlen)

/-- The invariant of the engine: MSG in canonical form and within MAXBYTES (R26), LE = PLATFORM_LE
(R34), BUSY exactly in PAD to SERIALIZE (R33, R36), a command recorded as running exactly then,
FAULT nonzero exactly in HALT (R33), DVALID clear while computing (R36), BI at most NBLK and NBLK at most
the block count of MAXBYTES (R20, R28; T is at most 64 by its type), and the bounds of each phase. -/
def State.Inv (s : State) : Bool :=
  s.msg.wf && decide (s.mlen ≤ s.params.maxBytes.val) && (s.le == s.params.platformLE)
    && (s.busy == s.phase.computing) && ((s.running != .none) == s.phase.computing)
    && ((s.fault != .none) == (s.phase == .halt)) && !(s.dvalid && s.phase.computing)
    && decide (s.bi ≤ s.nblk) && decide (s.nblk ≤ blockCount s.params.maxBytes.val) && s.positionOk && s.lengthsOk

/-- BLK is block BI of the padded message. -/
def State.blockLoaded (s : State) : Prop := s.blk = messageBlock s.msg.bytes s.bi

/-- H is the Working State after BI blocks of the message (R168). -/
def State.chained (s : State) : Prop := s.h = hashState s.msg.bytes s.bi

/-- W holds the first T words of BLK's schedule (R144). -/
def State.scheduled (s : State) : Prop :=
  ∀ (i : Nat) (_ : i < s.t.val) (_ : i < 64), s.w[i] = (schedule s.blk)[i]

/-- V holds the working variables after T rounds of the block (R168). -/
def State.roundsDone (s : State) : Prop := s.v = rounds (schedule s.blk) s.h s.t.val

/-- What the registers hold at each phase: the computation is that of SHA256hex of the retained message
(R168, R193, R207). -/
def State.computes (s : State) : Prop :=
  match s.phase with
  | .idle => True
  | .pad => True
  | .seed => True
  | .ldblk => s.chained
  | .ldw => s.chained ∧ s.blockLoaded ∧ s.scheduled
  | .expand => s.chained ∧ s.blockLoaded ∧ s.scheduled
  | .initv => s.chained ∧ s.blockLoaded ∧ s.w = schedule s.blk
  | .round => s.chained ∧ s.blockLoaded ∧ s.w = schedule s.blk ∧ s.roundsDone
  | .chain => s.chained ∧ s.blockLoaded ∧ s.w = schedule s.blk ∧ s.roundsDone
  | .serialize => s.chained
  | .halt => True

/-- DVALID = 1 means that DIGEST holds the digest of MSG (R33), with what keeps it so. -/
def State.Tracks (s : State) : Prop :=
  (s.dvalid = true → s.digest = sha256hex s.msg.bytes) ∧ s.computes

/-- Where the sequencer stands after one step: the columns "next PHASE", "BI after", "T after" of the
table of R206, with the faults of R242 to R244 for IDLE. -/
def State.nextPosition (s : State) : Phase × Nat × Nat :=
  match s.phase with
  | .idle =>
    match s.cmd with
    | [] => (.idle, s.bi, s.t.val)
    | f :: _ =>
      match decodeFrame f with
      | .illegal _ => (.halt, s.bi, s.t.val)
      | .ok (.hash p) => (if p.length ≤ s.params.maxBytes.val then .pad else .halt, s.bi, s.t.val)
      | .ok (.update p) =>
        (if s.mlen + p.length ≤ s.params.maxBytes.val then .pad else .halt, s.bi, s.t.val)
      | .ok .digest => (if s.dvalid then .idle else .halt, s.bi, s.t.val)
      | .ok .status => (.idle, s.bi, s.t.val)
  | .pad => (.seed, 0, s.t.val)
  | .seed => (.ldblk, s.bi, s.t.val)
  | .ldblk => (.ldw, s.bi, 0)
  | .ldw => if s.t.val ≤ 14 then (.ldw, s.bi, s.t.val + 1) else (.expand, s.bi, 16)
  | .expand => if s.t.val ≤ 62 then (.expand, s.bi, s.t.val + 1) else (.initv, s.bi, 64)
  | .initv => (.round, s.bi, 0)
  | .round => if s.t.val ≤ 62 then (.round, s.bi, s.t.val + 1) else (.chain, s.bi, 64)
  | .chain => if s.bi + 1 < s.nblk then (.ldblk, s.bi + 1, s.t.val) else (.serialize, s.bi + 1, s.t.val)
  | .serialize => (.idle, s.bi, s.t.val)
  | .halt => (.halt, s.bi, s.t.val)

/-- Two states that may differ only in what the platform's byte order reaches: LE, LANE and PLATFORM_LE
(R51, R109). -/
def State.AgreesButByteOrder (s u : State) : Prop :=
  u = { s with le := u.le, lane := u.lane, params := u.params }
    ∧ u.params.maxBytes = s.params.maxBytes

/-- Two states that agree on everything R39 gives a reset value and on the ports; the elements R39 calls
unspecified may differ, DIGEST only while DVALID = 0 (R40, R41). -/
def State.AgreesOnSpecified (s u : State) : Prop :=
  u.msg = s.msg ∧ u.phase = s.phase ∧ u.le = s.le ∧ u.fault = s.fault ∧ u.busy = s.busy
    ∧ u.dvalid = s.dvalid ∧ u.cmd = s.cmd ∧ u.rsp = s.rsp ∧ u.params = s.params
    ∧ (s.dvalid = true → u.digest = s.digest)

/-- The end of a run (R210): every frame accepted and PHASE IDLE or HALT. -/
def State.runOver (s : State) : Bool := s.cmd.isEmpty && !s.phase.computing

end Sys2Proof.Machine
end

