-- ==== Sys2Proof/Certificates/Slice0/Obligations.lean ====
section
/-! DEFINITION. The statements for the provers. Each is a numbered rule of spec/, or what follows from
several; the rules a docstring names are those of spec/. -/

open Sys2Proof Sys2Proof.Machine

/-! ### Encoding -/

/-- R75, R79, R80: decoding the code of a well-formed instruction gives the instruction back. -/
def Obligations.DecodeOfEncodeIsIdentity : Prop :=
  ∀ i : Instr, i.wellFormed = true → decode (encode i) = .ok i

/-- R75: the decode function line by line, and that Encode and Decode are inverse on legal frames. -/
def Obligations.FrameDecodeAndEncode : Prop :=
  (∃ why, decodeFrame [] = .illegal why)
  ∧ (∀ p, decodeFrame (0x01 :: p) = .ok (.hash p))
  ∧ (∀ p, decodeFrame (0x02 :: p) = .ok (.update p))
  ∧ decodeFrame [0x03] = .ok .digest
  ∧ decodeFrame [0x04] = .ok .status
  ∧ (∀ op p, op ≠ 0x01 → op ≠ 0x02 → ¬ (op = 0x03 ∧ p = []) → ¬ (op = 0x04 ∧ p = []) →
      ∃ why, decodeFrame (op :: p) = .illegal why)
  ∧ (∀ c, decodeFrame (encodeFrame c) = .ok c)
  ∧ (∀ f c, decodeFrame f = .ok c → encodeFrame c = f)

/-- R74: a frame is illegal exactly when (a), (b) or (c) holds, and ACCEPT of an illegal frame in IDLE
raises F_ILLEGAL. -/
def Obligations.IllegalFramesAreTheListedOnes : Prop :=
  (∀ f : Frame, (∃ why, decodeFrame f = .illegal why) ↔
      f.length = 0
      ∨ (∃ op p, f = op :: p ∧ (op = 0x00 ∨ 0x05 ≤ op.toNat))
      ∨ (∃ op p, f = op :: p ∧ (op = 0x03 ∨ op = 0x04) ∧ f.length ≠ 1))
  ∧ ∀ (s : State) (f : Frame) (rest : List Frame) (why : Reject),
      s.phase = .idle → s.busy = false → s.cmd = f :: rest → decodeFrame f = .illegal why →
      exec .accept s = .next
        { s with cmd := rest, fault := .illegal, phase := .halt, rsp := s.rsp ++ [[0x81]] }

/-- A few codes written out from the tables of R73, R79, R80. -/
def Obligations.WrittenOutCodesDecode : Prop :=
  decode (.frame [0x01, 0x61, 0x62, 0x63]) = .ok (.hash [0x61, 0x62, 0x63])
  ∧ decode (.frame [0x02, 0x80, 0x00]) = .ok (.update [0x80, 0x00])
  ∧ decode (.frame [0x03]) = .ok .digest
  ∧ decode (.frame [0x04]) = .ok .status
  ∧ decode (.frame [0x04, 0x00]) = .illegal .trailingBytes
  ∧ decode (.phase 0b0011) = .ok .ldblk
  ∧ decode (.phase 0b0101) = .ok .expand
  ∧ decode (.phase 0b1000) = .ok .chain
  ∧ decode (.phase 0b1001) = .ok .serialize
  ∧ decode (.phase 0b1111) = .ok .acceptHalt
  ∧ decode (.phase 0b1010) = .illegal .reservedPhase
  ∧ decode (.unit 0b010 0 8) = .ok (.rev 8)
  ∧ decode (.unit 0b101 0x12345678 4) = .ok (.rotl 0x12345678 4)
  ∧ decode (.unit 0b110 0 4) = .illegal .unusedUnit

/-- R206: a step is the micro-operation the PHASE code decodes to, and every phase's code decodes. -/
def Obligations.StepRunsMicroOperationOfPhase : Prop :=
  ∀ s : State, ∃ i : Instr, decode (.phase s.phase.code) = .ok i ∧ step s = exec i s

/-! ### Word functions -/

/-- R102: ROTR by an amount of 0..31, as the formula, bit by bit, and two rotations in a row. -/
def Obligations.RotateRightMovesBits : Prop :=
  ∀ (x : Word) (n : Nat), n ≤ 31 →
    (rotateRight x n).toNat = (x.toNat / 2 ^ n + x.toNat % 2 ^ n * 2 ^ (32 - n)) % 2 ^ 32
    ∧ (∀ i, i < 32 → (rotateRight x n).getLsbD i = x.getLsbD ((i + n) % 32))
    ∧ (∀ m, m ≤ 31 → rotateRight (rotateRight x m) n = rotateRight x ((m + n) % 32))

/-- R103: ROTL by an amount of 0..31, as the formula, bit by bit, and as a rotation to the right. -/
def Obligations.RotateLeftMovesBits : Prop :=
  ∀ (x : Word) (n : Nat), n ≤ 31 →
    (rotateLeft x n).toNat = (x.toNat * 2 ^ n % 2 ^ 32 + x.toNat / 2 ^ (32 - n)) % 2 ^ 32
    ∧ (∀ i, i < 32 → (rotateLeft x n).getLsbD i = x.getLsbD ((i + 32 - n) % 32))
    ∧ rotateLeft x n = rotateRight x ((32 - n) % 32)

/-- R104, R105: SHR is the quotient by 2^n, and ADD32 the sum modulo 2^32, the order and grouping of the
operands making no difference. -/
def Obligations.ShiftAndAddAreArithmetic : Prop :=
  (∀ (x : Word) (n : Nat), n ≤ 31 →
    (shiftRight x n).toNat = x.toNat / 2 ^ n ∧ (shiftRight x n).toNat < 2 ^ (32 - n))
  ∧ ∀ x y z : Word,
    (add32 x y).toNat = (x.toNat + y.toNat) % 2 ^ 32
    ∧ (add32 (add32 x y) z).toNat = (x.toNat + y.toNat + z.toNat) % 2 ^ 32
    ∧ add32 (add32 x y) z = add32 x (add32 y z) ∧ add32 x y = add32 y x

/-- R142, R143, R163, R165: the four mixing functions bit by bit; the third term of ssig0 and ssig1 is a
shift, so it has no bit where it would come from above bit 31. -/
def Obligations.MixingFunctionsBitByBit : Prop :=
  ∀ (x : Word) (i : Nat), i < 32 →
    (ssig0 x).getLsbD i
      = ((x.getLsbD ((i + 7) % 32) ^^ x.getLsbD ((i + 18) % 32)) ^^ (decide (i + 3 < 32) && x.getLsbD (i + 3)))
    ∧ (ssig1 x).getLsbD i
      = ((x.getLsbD ((i + 17) % 32) ^^ x.getLsbD ((i + 19) % 32)) ^^ (decide (i + 10 < 32) && x.getLsbD (i + 10)))
    ∧ (bsig1 x).getLsbD i
      = ((x.getLsbD ((i + 6) % 32) ^^ x.getLsbD ((i + 11) % 32)) ^^ x.getLsbD ((i + 25) % 32))
    ∧ (bsig0 x).getLsbD i
      = ((x.getLsbD ((i + 2) % 32) ^^ x.getLsbD ((i + 13) % 32)) ^^ x.getLsbD ((i + 22) % 32))

/-- R164, R166: Ch chooses the bit of f or g by the bit of e; Maj has a 1 where at least two operands
have one. -/
def Obligations.ChooseAndMajorityBitByBit : Prop :=
  ∀ (x y z : Word) (i : Nat), i < 32 →
    (ch x y z).getLsbD i = (if x.getLsbD i then y.getLsbD i else z.getLsbD i)
    ∧ (maj x y z).getLsbD i
        = decide (2 ≤ (x.getLsbD i).toNat + (y.getLsbD i).toNat + (z.getLsbD i).toNat)

/-- R24, R25: the tables are the derivation the rules quote, in exact integer arithmetic: K[t] is
floor(cuberoot(p_t * 2^96)) mod 2^32 and IV[i] is floor(sqrt(p_i * 2^64)) mod 2^32, p_t the t-th prime. -/
def Obligations.ConstantTablesAreRootFractions : Prop :=
  (∀ t : Fin 64, ∃ r : Nat,
      r ^ 3 ≤ Nat.nth Nat.Prime t.val * 2 ^ 96 ∧ Nat.nth Nat.Prime t.val * 2 ^ 96 < (r + 1) ^ 3
      ∧ roundConstants[t].toNat = r % 2 ^ 32)
  ∧ (∀ i : Fin 8, ∃ r : Nat,
      r ^ 2 ≤ Nat.nth Nat.Prime i.val * 2 ^ 64 ∧ Nat.nth Nat.Prime i.val * 2 ^ 64 < (r + 1) ^ 2
      ∧ initialHash[i].toNat = r % 2 ^ 32)

/-! ### The byte-order normalizer and the functional units -/

/-- R107: whatever LE is and whatever LANE held, NORM32 of four bytes is the big-endian word; LANE is
left with the four bytes, reversed if LE = 1, and its other bytes as they were. -/
def Obligations.NormalizingLoadIsBigEndian : Prop :=
  ∀ (le : Bool) (b : Vector Byte 4) (lane : Vector Byte 8),
    (norm32 le b lane).toNat
      = b[0].toNat * 2 ^ 24 + b[1].toNat * 2 ^ 16 + b[2].toNat * 2 ^ 8 + b[3].toNat
    ∧ (∀ k, k < 4 → (norm32Lane le b lane)[k]? = b[if le then 3 - k else k]?)
    ∧ ∀ k, 4 ≤ k → (norm32Lane le b lane)[k]? = lane[k]?

/-- R108: whatever LE is and whatever LANE held, byte k of ENC64(x) is floor(x / 2^(8*(7-k))) mod 256. -/
def Obligations.NormalizingStoreIsBigEndian : Prop :=
  ∀ (le : Bool) (x : BitVec 64) (lane : Vector Byte 8) (k : Fin 8),
    (enc64 le x lane)[k].toNat = x.toNat / 2 ^ (8 * (7 - k.val)) % 256

/-- R52: NativeRead is the sum of the lane's bytes with the weights of the platform's order, NativeWrite
writes the bytes with those weights and leaves bytes n and above alone; so what is written is read back,
and read back in the other order after a reversal. -/
def Obligations.NativeLaneAccess : Prop :=
  ∀ (le : Bool) (n : Nat) (lane : Vector Byte 8), n = 4 ∨ n = 8 →
    nativeRead le n lane
      = ∑ k : Fin 8, (if k.val < n
          then lane[k].toNat * 2 ^ (8 * (if le then k.val else n - 1 - k.val)) else 0)
    ∧ ∀ x, x < 2 ^ (8 * n) →
      (∀ k : Fin 8, k.val < n →
        (nativeWrite le n x lane)[k].toNat = x / 2 ^ (8 * (if le then k.val else n - 1 - k.val)) % 256)
      ∧ (∀ k : Fin 8, n ≤ k.val → (nativeWrite le n x lane)[k] = lane[k])
      ∧ nativeRead le n (nativeWrite le n x lane) = x
      ∧ ∀ h : n ≤ 8, nativeRead (!le) n (reverseLane n h (nativeWrite le n x lane)) = x

/-- R101: REV of a length 1..8 reverses the first bytes of LANE, leaves the others and everything else
alone, and undoes itself. -/
def Obligations.ReverseReversesPrefix : Prop :=
  ∀ (n : Nat) (s : State), 1 ≤ n → n ≤ 8 →
    ∃ t, exec (.rev n) s = .next t ∧ t = { s with lane := t.lane }
      ∧ (∀ k, k < n → t.lane[k]? = s.lane[n - 1 - k]?)
      ∧ (∀ k, n ≤ k → t.lane[k]? = s.lane[k]?)
      ∧ exec (.rev n) t = .next s

/-- R102, R103, and the model's choices of log entries 3 and 6: ROTR and ROTL by 0..31 put the rotated
word on the unit's output and change nothing else; by 32 or more they are refused (U2). -/
def Obligations.RotateUnitsComplete : Prop :=
  ∀ (x : Word) (n : Nat) (s : State),
    (n ≤ 31 → ∃ t, exec (.rotr x n) s = .next t ∧ t = { s with unitOut := t.unitOut }
        ∧ ∀ i, i < 32 → t.unitOut.getLsbD i = x.getLsbD ((i + n) % 32))
    ∧ (n ≤ 31 → ∃ t, exec (.rotl x n) s = .next t ∧ t = { s with unitOut := t.unitOut }
        ∧ ∀ i, i < 32 → t.unitOut.getLsbD ((i + n) % 32) = x.getLsbD i)
    ∧ (32 ≤ n → exec (.rotr x n) s = .refused .rotateAmount
        ∧ exec (.rotl x n) s = .refused .rotateAmount)

/-- R100: DETECT copies PLATFORM_LE to LE, writes nothing else, and is idempotent. -/
def Obligations.DetectCopiesPlatformOrder : Prop :=
  ∀ s : State, ∃ t, exec .detect s = .next t ∧ t = { s with le := s.params.platformLE }
    ∧ exec .detect t = .next t

/-! ### The preprocessor -/

/-- R120, R127: for every MLEN a store can hold, PAD makes BITLEN exactly 8 * MLEN and NBLK the least number of blocks with room for the
message, the marker and the trailer, clears BI, goes to SEED and changes nothing else. -/
def Obligations.PadComputesLengths : Prop :=
  ∀ s : State, s.mlen < 2 ^ 61 →
    ∃ t, exec .pad s = .next t
      ∧ t = { s with bitlen := t.bitlen, nblk := t.nblk, bi := 0, phase := .seed }
      ∧ t.bitlen.toNat = 8 * s.mlen
      ∧ t.nblk = (s.mlen + 8) / 64 + 1
      ∧ s.mlen + 9 ≤ 64 * t.nblk ∧ ∀ n, s.mlen + 9 ≤ 64 * n → t.nblk ≤ n

/-- R122: the number of fill bytes. -/
def Obligations.FillByteCount : Prop :=
  ∀ n : Nat,
    let z : Int := 64 * (blockCount n : Int) - 9 - n
    0 ≤ z ∧ z ≤ 63 ∧ z = (55 - (n : Int)) % 64
      ∧ (z = 0 ↔ n % 64 = 55) ∧ (z = 63 ↔ n % 64 = 56)

/-- R121: with the lengths PAD computes, the bytes PBYTE(0) to PBYTE(64*NBLK - 1) are the message, one
byte 0x80, Z bytes 0x00 and the 8 bytes of BITLEN, most significant first. -/
def Obligations.PaddedMessageLayout : Prop :=
  ∀ s : State, s.msg.wf = true → s.nblk = blockCount s.mlen →
    (List.range (64 * s.nblk)).map s.pbyte
      = (s.msg.bytes ++ [0x80] ++ List.replicate (64 * s.nblk - 9 - s.mlen) 0x00
          ++ bigEndian 8 s.bitlen.toNat).map some

/-- R124: LDBLK with BI < NBLK loads the 64 bytes PBYTE(64*BI + k), clears T, goes to LDW; beside that
only the staging register LANE may change, to what ENC64 leaves in it. -/
def Obligations.LoadBlockLoadsPaddedBytes : Prop :=
  ∀ s : State, s.msg.wf = true → s.bi < s.nblk →
    ∃ t, exec .ldblk s = .next t
      ∧ t = { s with blk := t.blk, lane := t.lane, t := 0, phase := .ldw }
      ∧ (∀ k : Fin 64, s.pbyte (64 * s.bi + k.val) = some t.blk[k])
      ∧ (t.lane = s.lane ∨ t.lane = enc64 s.le s.bitlen s.lane)

/-- R26, R62: once the lengths are those of the retained message, the block LDBLK loads is a function of
the message alone. -/
def Obligations.LoadedBlockDependsOnMessageOnly : Prop :=
  ∀ s : State, s.Inv = true → s.phase = .ldblk →
    ∃ t, exec .ldblk s = .next t ∧ t.blk = messageBlock s.msg.bytes s.bi

/-! ### The message schedule -/

/-- R140: LDW at T in 0..15; LANE is left as NORM32 leaves it (R107). -/
def Obligations.LoadWordWritesSchedule : Prop :=
  ∀ (s : State) (h : s.t.val ≤ 15),
    ∃ t, exec .ldw s = .next t
      ∧ t = { s with
                w := t.w, lane := t.lane, t := ⟨s.t.val + 1, by omega⟩,
                phase := if s.t.val + 1 = 16 then .expand else .ldw }
      ∧ (t.w[s.t.val]'(by omega)).toNat
          = (s.blk[4 * s.t.val]'(by omega)).toNat * 2 ^ 24 + (s.blk[4 * s.t.val + 1]'(by omega)).toNat * 2 ^ 16
            + (s.blk[4 * s.t.val + 2]'(by omega)).toNat * 2 ^ 8 + (s.blk[4 * s.t.val + 3]'(by omega)).toNat
      ∧ (∀ j, j ≠ s.t.val → t.w[j]? = s.w[j]?)
      ∧ (∀ k, k < 4 → t.lane[k]? = s.blk[4 * s.t.val + if s.le then 3 - k else k]?)
      ∧ ∀ k, 4 ≤ k → t.lane[k]? = s.lane[k]?

/-- R141: EXPAND at T in 16..63; the sum of the four words is reduced modulo 2^32. -/
def Obligations.ExpandWritesSchedule : Prop :=
  ∀ (s : State) (_ : 16 ≤ s.t.val) (h : s.t.val ≤ 63),
    ∃ t, exec .expand s = .next t
      ∧ t = { s with
                w := t.w, t := ⟨s.t.val + 1, by omega⟩, phase := if s.t.val + 1 = 64 then .initv else .expand }
      ∧ (t.w[s.t.val]'(by omega)).toNat
          = ((s.w[s.t.val - 16]'(by omega)).toNat + (ssig0 (s.w[s.t.val - 15]'(by omega))).toNat
              + (s.w[s.t.val - 7]'(by omega)).toNat + (ssig1 (s.w[s.t.val - 2]'(by omega))).toNat) % 2 ^ 32
      ∧ ∀ j, j ≠ s.t.val → t.w[j]? = s.w[j]?

/-- R144: Sched(B) word by word. -/
def Obligations.ScheduleClosedForm : Prop :=
  ∀ (b : Vector Byte 64) (i : Nat) (h : i < 64),
    (∀ _ : i ≤ 15,
      ((schedule b)[i]).toNat
        = (b[4 * i]'(by omega)).toNat * 2 ^ 24 + (b[4 * i + 1]'(by omega)).toNat * 2 ^ 16
          + (b[4 * i + 2]'(by omega)).toNat * 2 ^ 8 + (b[4 * i + 3]'(by omega)).toNat)
    ∧ (∀ _ : 16 ≤ i,
      ((schedule b)[i]).toNat
        = (((schedule b)[i - 16]'(by omega)).toNat + (ssig0 ((schedule b)[i - 15]'(by omega))).toNat
            + ((schedule b)[i - 7]'(by omega)).toNat
            + (ssig1 ((schedule b)[i - 2]'(by omega))).toNat) % 2 ^ 32)

/-- R50, R127 and the model's choices of log entries 5, 9 and 12: a micro-operation executed at an index
outside the space it reads, which the sequencer never produces, PAD of a message whose length in bits does
not fit BITLEN, which no store holds, and REV of a length above LANE's 8 bytes are faults by name; REV of
length 0 is the no-op (U1). -/
def Obligations.IndicesOutsideSpacesStop : Prop :=
  ∀ s : State,
    (15 < s.t.val → exec .ldw s = .fault .scheduleIndex)
    ∧ (s.t.val < 16 ∨ 63 < s.t.val → exec .expand s = .fault .scheduleIndex)
    ∧ (63 < s.t.val → exec .round s = .fault .scheduleIndex)
    ∧ (s.nblk ≤ s.bi → exec .ldblk s = .fault .blockIndex)
    ∧ (2 ^ 61 ≤ s.mlen → exec .pad s = .fault .bitLength)
    ∧ (∀ n, 8 < n → exec (.rev n) s = .fault .laneIndex)
    ∧ exec (.rev 0) s = .next s

/-! ### Compression -/

/-- R160, R161: SEED puts the eight table words of R25 into H; INITV copies H to V and clears T; neither
changes anything else. -/
def Obligations.SeedAndInitLoadEightWords : Prop :=
  ∀ s : State,
    exec .seed s = .next
      { s with
        h := #v[0x6a09e667, 0xbb67ae85, 0x3c6ef372, 0xa54ff53a,
          0x510e527f, 0x9b05688c, 0x1f83d9ab, 0x5be0cd19]
        phase := .ldblk }
    ∧ exec .initv s = .next { s with v := s.h, t := 0, phase := .round }

/-- R162: ROUND at T in 0..63, every right-hand side on the old values, sums reduced modulo 2^32. -/
def Obligations.RoundUpdatesWorkingVariables : Prop :=
  ∀ (s : State) (h : s.t.val ≤ 63),
    let temp1 : Nat := s.v[7].toNat + (bsig1 s.v[4]).toNat + (ch s.v[4] s.v[5] s.v[6]).toNat
      + (roundConstants[s.t.val]'(by omega)).toNat + (s.w[s.t.val]'(by omega)).toNat
    let temp2 : Nat := (bsig0 s.v[0]).toNat + (maj s.v[0] s.v[1] s.v[2]).toNat
    exec .round s = .next
      { s with
        v := #v[BitVec.ofNat 32 (temp1 + temp2), s.v[0], s.v[1], s.v[2],
          BitVec.ofNat 32 (s.v[3].toNat + temp1), s.v[4], s.v[5], s.v[6]]
        t := ⟨s.t.val + 1, by omega⟩
        phase := if s.t.val + 1 = 64 then .chain else .round }

/-- R167: CHAIN adds V to H word by word modulo 2^32, advances BI and goes to SERIALIZE after the last
block; nothing else changes. -/
def Obligations.ChainAddsIntoWorkingState : Prop :=
  ∀ s : State, ∃ t, exec .chain s = .next t
    ∧ t = { s with
              h := t.h, bi := s.bi + 1, phase := if s.bi + 1 = s.nblk then .serialize else .ldblk }
    ∧ ∀ i : Fin 8, t.h[i].toNat = (s.h[i].toNat + s.v[i].toNat) % 2 ^ 32

/-- R168: from LDBLK, the 131 steps of one block take H to Compress(H, B) for the block B of the padded
message, BI to the next block and T to 64. Beside these and PHASE only the registers a block works in, V, W,
BLK and LANE, change. -/
def Obligations.BlockStepsCompress : Prop :=
  ∀ s : State, s.Inv = true → s.phase = .ldblk →
    ∃ t, runSteps 131 s = .next t
      ∧ t.h = compress s.h (messageBlock s.msg.bytes s.bi)
      ∧ t = { s with
                h := t.h, v := t.v, w := t.w, blk := t.blk, lane := t.lane, t := 64, bi := s.bi + 1,
                phase := if s.bi + 1 = s.nblk then .serialize else .ldblk }

/-! ### The serializer -/

/-- R191, R192: character 8*i + k of the digest is the lowercase hexadecimal digit of bits 31-4k .. 28-4k
of word i. -/
def Obligations.DigestCharactersAreHexDigits : Prop :=
  ∀ (h : Vector Word 8) (i k : Fin 8),
    let d := h[i].toNat / 2 ^ (28 - 4 * k.val) % 16
    ((hexDigest h)[8 * i.val + k.val]'(by omega)).toNat = (if d ≤ 9 then 0x30 + d else 0x61 + (d - 10))

/-- R195: the 64 characters determine the eight words. -/
def Obligations.DigestDeterminesWorkingState : Prop :=
  ∀ h h' : Vector Word 8, hexDigest h = hexDigest h' → h = h'

/-- R190, with the response of the command the model records as running (DEDUCED, log entry 2). -/
def Obligations.SerializeProducesDigest : Prop :=
  ∀ s : State, ∃ t, exec .serialize s = .next t
    ∧ t = { s with
              digest := t.digest, dvalid := true, busy := false, phase := .idle, rsp := t.rsp,
              running := .none }
    ∧ (∀ i k : Fin 8, t.digest[8 * i.val + k.val]? = some (hexChar (s.h[i].extractLsb' (28 - 4 * k.val) 4)))
    ∧ t.rsp = s.rsp ++ (match s.running with
        | .none => []
        | .hash => [0x00 :: t.digest.toList]
        | .update => [[0x00]])

/-! ### Commands -/

/-- R201: HASH in IDLE. -/
def Obligations.HashCommandResult : Prop :=
  ∀ (p : List Byte) (s : State), s.phase = .idle → s.busy = false →
    (p.length ≤ s.params.maxBytes.val →
      ∃ t, exec (.hash p) s = .next t
        ∧ t.msg.bytes = p ∧ t.msg.wf = true ∧ t.mlen = p.length
        ∧ t.digest = sha256hex p ∧ t.dvalid = true ∧ t.busy = false ∧ t.phase = .idle
        ∧ t.rsp = s.rsp ++ [0x00 :: (sha256hex p).toList]
        ∧ t.cmd = s.cmd ∧ t.le = s.le ∧ t.fault = s.fault ∧ t.params = s.params
        ∧ t.unitOut = s.unitOut)
    ∧ (s.params.maxBytes.val < p.length →
      exec (.hash p) s = .next
        { s with fault := .tooLong, phase := .halt, rsp := s.rsp ++ [[0x83]] })

/-- R202: UPDATE in IDLE hashes MSG ‖ p; the bytes below the old MLEN stay. -/
def Obligations.UpdateCommandResult : Prop :=
  ∀ (p : List Byte) (s : State), s.phase = .idle → s.busy = false → s.msg.wf = true →
    (s.mlen + p.length ≤ s.params.maxBytes.val →
      ∃ t, exec (.update p) s = .next t
        ∧ t.msg.bytes = s.msg.bytes ++ p ∧ t.msg.wf = true ∧ t.mlen = s.mlen + p.length
        ∧ (∀ i, i < s.mlen → t.msg.read i = s.msg.read i)
        ∧ (∀ k, t.msg.read (s.mlen + k) = p[k]?)
        ∧ t.digest = sha256hex (s.msg.bytes ++ p)
        ∧ t.dvalid = true ∧ t.busy = false ∧ t.phase = .idle
        ∧ t.rsp = s.rsp ++ [[0x00]]
        ∧ t.cmd = s.cmd ∧ t.le = s.le ∧ t.fault = s.fault ∧ t.params = s.params
        ∧ t.unitOut = s.unitOut)
    ∧ (s.params.maxBytes.val < s.mlen + p.length →
      exec (.update p) s = .next
        { s with fault := .tooLong, phase := .halt, rsp := s.rsp ++ [[0x83]] })

/-- R205: what Run leaves in the state, for HASH and for UPDATE; LANE's leftover, which the rule does not
pin down, is left out. -/
def Obligations.RunLeavesState : Prop :=
  ∀ (i : Instr) (m : List Byte) (s : State), s.phase = .idle → s.busy = false →
    m.length ≤ s.params.maxBytes.val →
    (i = .hash m ∨ ∃ p, m = s.msg.bytes ++ p ∧ i = .update p) →
    ∃ t, exec i s = .next t
      ∧ t.digest = sha256hex m ∧ t.dvalid = true ∧ t.busy = false ∧ t.phase = .idle
      ∧ t.fault = s.fault
      ∧ t.bitlen.toNat = 8 * m.length ∧ t.nblk = (m.length + 8) / 64 + 1 ∧ t.bi = t.nblk ∧ t.t.val = 64
      ∧ t.h = hashState m t.nblk ∧ t.digest = hexDigest t.h
      ∧ t.blk = messageBlock m (t.nblk - 1) ∧ t.w = schedule t.blk
      ∧ t.v = rounds t.w (hashState m (t.nblk - 1)) 64

/-- R203, R243: DIGEST in IDLE. -/
def Obligations.DigestCommandResult : Prop :=
  ∀ s : State, s.phase = .idle → s.busy = false →
    (s.dvalid = true →
      exec .digest s = .next { s with rsp := s.rsp ++ [0x00 :: s.digest.toList] })
    ∧ (s.dvalid = false →
      exec .digest s = .next
        { s with fault := .noDigest, phase := .halt, rsp := s.rsp ++ [[0x82]] })

/-- R204: STATUS in IDLE and in HALT sends SR and MLEN, most significant byte first, and changes no
state. -/
def Obligations.StatusCommandResult : Prop :=
  ∀ s : State, s.phase = .idle ∨ s.phase = .halt → s.busy = false →
    s.mlen ≤ s.params.maxBytes.val →
    ∃ d : List Byte, exec .status s = .next { s with rsp := s.rsp ++ [0x00 :: d] }
      ∧ d.length = 12
      ∧ (d.take 4).foldl (fun a b => a * 256 + b.toNat) 0 = s.sr.toNat
      ∧ (d.drop 4).foldl (fun a b => a * 256 + b.toNat) 0 = s.mlen

/-- R200: ACCEPT of a frame in IDLE and in HALT, every case. The first clause is the model's choice (log
entry 11): ACCEPT executed where it is not enabled, where R206 has no step, answers the same state.
`RUNNING` is the model's own field (log entry 2). -/
def Obligations.AcceptDispatchesFrame : Prop :=
  (∀ s : State, s.busy = true ∨ s.phase.computing = true ∨ s.cmd = [] → exec .accept s = .next s)
  ∧ ∀ (s : State) (f : Frame) (rest : List Frame), s.busy = false → s.cmd = f :: rest →
    (s.phase = .idle →
      (∀ p, decodeFrame f = .ok (.hash p) →
        (s.params.maxBytes.val < p.length →
          exec .accept s = .next { s with
            cmd := rest, fault := .tooLong, phase := .halt, rsp := s.rsp ++ [[0x83]] })
        ∧ (p.length ≤ s.params.maxBytes.val →
          ∃ t, exec .accept s = .next t ∧ t.msg.bytes = p ∧ t.msg.wf = true
            ∧ t = { s with
                      cmd := rest, msg := t.msg, busy := true, dvalid := false, phase := .pad,
                      running := t.running }))
      ∧ (∀ p, decodeFrame f = .ok (.update p) →
        (s.params.maxBytes.val < s.mlen + p.length →
          exec .accept s = .next { s with
            cmd := rest, fault := .tooLong, phase := .halt, rsp := s.rsp ++ [[0x83]] })
        ∧ (s.mlen + p.length ≤ s.params.maxBytes.val →
          ∃ t, exec .accept s = .next t ∧ t.msg.bytes = s.msg.bytes ++ p
            ∧ (s.msg.wf = true → t.msg.wf = true)
            ∧ t = { s with
                      cmd := rest, msg := t.msg, busy := true, dvalid := false, phase := .pad,
                      running := t.running }))
      ∧ (decodeFrame f = .ok .digest →
        exec .accept s = .next (if s.dvalid = true
          then { s with cmd := rest, rsp := s.rsp ++ [0x00 :: s.digest.toList] }
          else { s with
            cmd := rest, fault := .noDigest, phase := .halt, rsp := s.rsp ++ [[0x82]] }))
      ∧ (decodeFrame f = .ok .status →
        exec .accept s = .next { s with
          cmd := rest
          rsp := s.rsp ++ [0x00 :: (bigEndian 4 s.sr.toNat ++ bigEndian 8 s.mlen)] })
      ∧ (∀ why, decodeFrame f = .illegal why →
        exec .accept s = .next { s with
          cmd := rest, fault := .illegal, phase := .halt, rsp := s.rsp ++ [[0x81]] }))
    ∧ (s.phase = .halt →
      exec .accept s = .next { s with
        cmd := rest
        rsp := s.rsp ++ [if decodeFrame f = .ok .status
          then 0x00 :: (bigEndian 4 s.sr.toNat ++ bigEndian 8 s.mlen)
          else [0x80 + s.fault.code.setWidth 8]] })

/-- R248: in HALT, ACCEPT.HALT and every command but STATUS answer 0x80 + FAULT, STATUS is answered with
SR and MLEN, and nothing but the ports changes. -/
def Obligations.HaltedEngineAnswers : Prop :=
  ∀ s : State, s.phase = .halt → s.busy = false →
    (∀ rest, s.cmd = [0x04] :: rest → exec .acceptHalt s = .next { s with
        cmd := rest
        rsp := s.rsp ++ [0x00 :: (bigEndian 4 s.sr.toNat ++ bigEndian 8 s.mlen)] })
    ∧ (∀ f rest, s.cmd = f :: rest → f ≠ [0x04] → exec .acceptHalt s = .next { s with
        cmd := rest, rsp := s.rsp ++ [[0x80 + s.fault.code.setWidth 8]] })
    ∧ (∀ i, (∃ p, i = .hash p) ∨ (∃ p, i = .update p) ∨ i = .digest →
        exec i s = .next { s with rsp := s.rsp ++ [[0x80 + s.fault.code.setWidth 8]] })

/-- R38 and the model's choices of log entries 8 and 11. Where ACCEPT and its halted form are not enabled,
R206 has no step; the model answers the same state (log entry 11), so the frame waits on CMD as R38 says. A
command executed while the engine computes has its frame put at the head of CMD (log entry 8). -/
def Obligations.FramesWaitOnCommandPort : Prop :=
  (∀ s : State, s.cmd = [] → exec .accept s = .next s ∧ exec .acceptHalt s = .next s)
  ∧ ∀ s : State, s.phase.computing = true →
      exec .accept s = .next s ∧ exec .acceptHalt s = .next s
      ∧ (∀ p, exec (.hash p) s = .next { s with cmd := (0x01 :: p) :: s.cmd })
      ∧ (∀ p, exec (.update p) s = .next { s with cmd := (0x02 :: p) :: s.cmd })
      ∧ exec .digest s = .next { s with cmd := [0x03] :: s.cmd }
      ∧ exec .status s = .next { s with cmd := [0x04] :: s.cmd }

/-- R77, R78: every accepted frame is taken from CMD and answered by exactly one response frame, of the
status byte and the length the tables give. -/
def Obligations.OneResponsePerCommand : Prop :=
  ∀ (s : State) (f : Frame) (rest : List Frame),
    s.Inv = true → s.phase.computing = false → s.cmd = f :: rest →
    ∃ t status data, commandStep s = .next t ∧ t.cmd = rest
      ∧ t.rsp = s.rsp ++ [status :: data]
      ∧ ((status = 0x00
            ∧ ((∃ p, decodeFrame f = .ok (.hash p) ∧ data = t.digest.toList ∧ data.length = 64)
              ∨ (∃ p, decodeFrame f = .ok (.update p) ∧ data = [])
              ∨ (decodeFrame f = .ok .digest ∧ data = t.digest.toList ∧ data.length = 64)
              ∨ (decodeFrame f = .ok .status ∧ data.length = 12
                ∧ data = bigEndian 4 s.sr.toNat ++ bigEndian 8 s.mlen)))
          ∨ (t.fault ≠ .none ∧ data = []
            ∧ (status = 0x81 ∧ t.fault = .illegal ∨ status = 0x82 ∧ t.fault = .noDigest
              ∨ status = 0x83 ∧ t.fault = .tooLong)))

/-! ### Faults and HALT -/

/-- R247: a step that enters HALT from another phase records a fault code, sends 0x80 + code, and changes
nothing else. -/
def Obligations.FaultEntryIsPrecise : Prop :=
  ∀ s t : State, s.phase ≠ .halt → step s = .next t → t.phase = .halt →
    s.phase = .idle ∧ ∃ (c : FaultCode) (f : Frame), c ≠ .none ∧ s.cmd = f :: t.cmd
      ∧ t = { s with
                cmd := t.cmd, fault := c, phase := .halt,
                rsp := s.rsp ++ [[0x80 + c.code.setWidth 8]] }

/-- R248, R270, R12: HALT is left, and FAULT cleared, only by reset. From HALT a step changes the ports
alone; of the host's moves, offering a frame appends it to CMD, taking a response removes the oldest of RSP,
and both change nothing else. -/
def Obligations.HaltIsLeftOnlyByReset : Prop :=
  (∀ s t : State, s.phase = .halt → step s = .next t →
    t = { s with cmd := t.cmd, rsp := t.rsp })
  ∧ (∀ (s : State) (f : Frame), s.hostOffer f = { s with cmd := s.cmd ++ [f] }
      ∧ s.hostTake = (s.rsp.head?, { s with rsp := s.rsp.tail }))
  ∧ ∀ s : State, s.hostReset.phase = .idle ∧ s.hostReset.fault = .none

/-- R240: no micro-operation from PAD to SERIALIZE and no functional unit raises anything: FAULT stays and
HALT is not entered. -/
def Obligations.ComputationRaisesNoFault : Prop :=
  ∀ (i : Instr) (s t : State),
    i = .pad ∨ i = .seed ∨ i = .ldblk ∨ i = .ldw ∨ i = .expand ∨ i = .initv ∨ i = .round ∨ i = .chain
      ∨ i = .serialize ∨ i = .detect ∨ (∃ n, i = .rev n) ∨ (∃ x n, i = .rotr x n)
      ∨ (∃ x n, i = .rotl x n) →
    exec i s = .next t → t.fault = s.fault ∧ (t.phase = .halt → s.phase = .halt)

/-! ### The whole machine -/

/-- R39, R270: the values the rules give for the state after reset, from any state. -/
def Obligations.ResetValues : Prop :=
  (∀ s : State,
    s.hostReset.phase = .idle ∧ s.hostReset.busy = false ∧ s.hostReset.dvalid = false
    ∧ s.hostReset.fault = .none ∧ s.hostReset.le = s.params.platformLE
    ∧ s.hostReset.sr = (if s.params.platformLE then 0x00000004 else 0x00000000)
    ∧ s.hostReset.mlen = 0 ∧ s.hostReset.msg = [] ∧ s.hostReset.cmd = [] ∧ s.hostReset.rsp = []
    ∧ s.hostReset.params = s.params)
  ∧ State.reset = State.reset.hostReset

/-- The invariant holds after reset, whatever the parameters. That BI <= NBLK <= the block count of MAXBYTES
holds there is by the model's choice of their reset values (log entry 1); R39 leaves both unspecified. -/
def Obligations.InvariantHoldsAtReset : Prop :=
  (∀ p : Params, (State.resetWith p).Inv = true ∧ (State.resetWith p).Tracks)
  ∧ State.reset.Inv = true ∧ State.reset.Tracks

/-- R20, R26, R28, R33, R34, R36, R120: every step from a state that meets the invariant gives a state that
meets it. -/
def Obligations.StepKeepsInvariant : Prop :=
  ∀ s t : State, s.Inv = true → step s = .next t → t.Inv = true

/-- The host's moves keep the invariant too (R12); after reset by the values of log entry 1. -/
def Obligations.HostMovesKeepInvariant : Prop :=
  ∀ (s : State) (f : Frame), s.Inv = true →
    (s.hostOffer f).Inv = true ∧ s.hostTake.2.Inv = true ∧ s.hostReset.Inv = true

/-- R206, R240: from a state that meets the invariant a step never stops, and PHASE, BI and T move as the
table of R206 says. That a step in IDLE or HALT without a frame, where R206 has no step, answers a next
state, the same one, is the model's choice (log entry 11). -/
def Obligations.SequencerMovesByTable : Prop :=
  ∀ s : State, s.Inv = true →
    ∃ t, step s = .next t ∧ (t.phase, t.bi, t.t.val) = s.nextPosition

/-- R33, R168, R193: every step keeps that the registers hold the computation of SHA256hex of the
retained message, and that DIGEST is that digest whenever DVALID = 1. -/
def Obligations.StepKeepsDigestOfMessage : Prop :=
  ∀ s t : State, s.Inv = true → s.Tracks → step s = .next t → t.Tracks

/-- R207, R212: the 4 + 131 * NBLK steps of HASH and of UPDATE end in exactly the state, hidden elements
and response included, that the command level gives. For LANE, which R205 and U8 do not pin down, and for
RUNNING, the model's own field, the equality is of the model's choices (log entries 7 and 2). -/
def Obligations.SequencerReachesCommandLevel : Prop :=
  ∀ (s : State) (p : List Byte) (rest : List Frame), s.Inv = true → s.phase = .idle →
    (s.cmd = (0x01 :: p) :: rest → p.length ≤ s.params.maxBytes.val →
      runSteps (4 + 131 * blockCount p.length) s = exec (.hash p) { s with cmd := rest })
    ∧ (s.cmd = (0x02 :: p) :: rest → s.mlen + p.length ≤ s.params.maxBytes.val →
      runSteps (4 + 131 * blockCount (s.mlen + p.length)) s = exec (.update p) { s with cmd := rest })

/-- R207: every frame that starts no computation takes one step, and the two levels are the same. -/
def Obligations.OtherFramesTakeOneStep : Prop :=
  ∀ (s : State) (f : Frame) (rest : List Frame),
    s.busy = false → s.phase.computing = false → s.cmd = f :: rest →
    s.phase = .halt
      ∨ (∀ p, decodeFrame f = .ok (.hash p) → s.params.maxBytes.val < p.length)
        ∧ (∀ p, decodeFrame f = .ok (.update p) → s.params.maxBytes.val < s.mlen + p.length) →
    step s = commandStep s

/-- R208: HASH A then UPDATE B leaves the engine exactly as HASH A ‖ B does, but for the responses. For
LANE, of which R208 says nothing and which R205 and U8 do not pin down, the equality is of the model's
choice (log entry 7). -/
def Obligations.UpdateIsRehashOfConcatenation : Prop :=
  ∀ (a b : List Byte) (s : State), s.phase = .idle → s.busy = false →
    a.length + b.length ≤ s.params.maxBytes.val →
    ∃ t u v, exec (.hash a) s = .next t ∧ exec (.update b) t = .next u
      ∧ exec (.hash (a ++ b)) s = .next v ∧ u = { v with rsp := u.rsp }
      ∧ u.digest = sha256hex (a ++ b)

/-- R51, R109, R209: but for a STATUS frame, two engines that differ only in the platform's byte order
stay so: no value outside LANE depends on it. -/
def Obligations.ByteOrderReachesOnlyLane : Prop :=
  ∀ s u t : State, s.AgreesButByteOrder u →
    (s.phase.computing = false → s.cmd.head? ≠ some [0x04]) →
    step s = .next t → ∃ v, step u = .next v ∧ t.AgreesButByteOrder v

/-- R40, R41: what reset leaves unspecified never reaches a response: two engines that agree on the
specified elements answer every command alike and agree again. -/
def Obligations.UnspecifiedStateIsNeverObserved : Prop :=
  ∀ s u t : State, s.AgreesOnSpecified u → commandStep s = .next t →
    ∃ v, commandStep u = .next v ∧ t.AgreesOnSpecified v

/-- R62, R26: while the engine computes, no step writes MSG, and no step outside IDLE writes it. -/
def Obligations.MessageStableDuringComputation : Prop :=
  ∀ s t : State, s.phase ≠ .idle → step s = .next t →
    t.msg = s.msg ∧ ∀ i, t.msg.read i = s.msg.read i

/-- R194, R32: no step but SERIALIZE's writes DIGEST, and DIGEST and STATUS leave it alone. -/
def Obligations.DigestWrittenOnlyBySerialize : Prop :=
  (∀ s t : State, s.phase ≠ .serialize → step s = .next t → t.digest = s.digest)
  ∧ ∀ s t : State, (exec .digest s = .next t → t.digest = s.digest)
      ∧ (exec .status s = .next t → t.digest = s.digest)

/-- R6, R34: no step writes the parameters, and none writes LE. -/
def Obligations.StepKeepsParametersAndByteOrder : Prop :=
  ∀ s t : State, step s = .next t → t.params = s.params ∧ t.le = s.le

/-- R33: the fields of SR, and the values a host can observe. -/
def Obligations.StatusRegisterFields : Prop :=
  (∀ s : State,
    s.sr.getLsbD 0 = s.busy ∧ s.sr.getLsbD 1 = s.dvalid ∧ s.sr.getLsbD 2 = s.le
    ∧ s.sr.getLsbD 3 = false ∧ s.sr.extractLsb' 4 4 = s.fault.code
    ∧ s.sr.extractLsb' 8 4 = s.phase.code ∧ s.sr.extractLsb' 12 20 = 0)
  ∧ ∀ s : State, s.Inv = true → s.busy = false →
      s.sr.toNat ∈ [0x000, 0x002, 0x004, 0x006]
      ∨ ∃ f, 1 ≤ f ∧ f ≤ 3 ∧ s.sr.toNat = 0xF00 + 16 * f + 4 * s.le.toNat + 2 * s.dvalid.toNat
end

