-- ==== Sys2Proof/Laws/Basic.lean ====
section
/-! SUPPORT. Small laws of the shared operations: tabulated vectors, the message store, byte
sequences. -/

namespace Sys2Proof.Machine

open Sys2Proof

/-! ### Tabulated vectors -/

@[simp] theorem tabulate_getElem {α : Type} {n : Nat} (f : Fin n → α) (i : Nat) (h : i < n) :
    (tabulate f)[i] = f ⟨i, h⟩ := by
  simp [tabulate, Vector.getElem_mk]

theorem vector_ext {α : Type} {n : Nat} {x y : Vector α n}
    (h : ∀ (i : Nat) (hi : i < n), x[i] = y[i]) : x = y := Vector.ext h

/-- K[t] by its place in the table of R24. -/
theorem roundConstants_getElem (t : Nat) (h : t < 64) :
    roundConstants[t] = (roundConstantRows[t % 16])[t / 16] := by
  simp [roundConstants]

@[simp] theorem indexAfter_val (t : Fin 65) (h : t.val ≤ 63) : (indexAfter t h).val = t.val + 1 := rfl

/-! ### The message store -/

@[simp] theorem cellsAt_length (base : Nat) (p : List Byte) : (cellsAt base p).length = p.length := by
  induction p generalizing base with
  | nil => rfl
  | cons b p ih => simp [cellsAt, ih]

@[simp] theorem cellsAt_bytes (base : Nat) (p : List Byte) :
    (cellsAt base p).map Prod.snd = p := by
  induction p generalizing base with
  | nil => rfl
  | cons b p ih => simp [cellsAt, ih]

theorem cellsAt_indices (base : Nat) (p : List Byte) :
    (cellsAt base p).map Prod.fst = List.range' base p.length := by
  induction p generalizing base with
  | nil => rfl
  | cons b p ih => simp [cellsAt, ih, List.range'_succ]

theorem cellsAt_append (base : Nat) (p q : List Byte) :
    cellsAt base (p ++ q) = cellsAt base p ++ cellsAt (base + p.length) q := by
  induction p generalizing base with
  | nil => rfl
  | cons b p ih => simp [cellsAt, ih, Nat.add_assoc, Nat.add_comm 1]

theorem lookup_cellsAt (base : Nat) (p : List Byte) (i : Nat) :
    (cellsAt base p).lookup i = if i < base then none else p[i - base]? := by
  induction p generalizing base with
  | nil => simp [cellsAt]
  | cons b p ih =>
    by_cases hi : i = base
    · subst hi; simp [cellsAt]
    · have hne : (i == base) = false := by simpa using hi
      simp only [cellsAt, List.lookup, hne, ih]
      by_cases hlt : i < base
      · simp [hlt, Nat.lt_succ_of_lt hlt]
      · have h1 : ¬ i < base + 1 := by omega
        have h2 : i - base = (i - (base + 1)) + 1 := by omega
        simp only [hlt, h1, if_false]
        rw [h2]; simp

/-- The canonical form determines the store from its bytes. -/
theorem Memory.wf_iff (m : Memory) : m.wf = true ↔ m = cellsAt 0 m.bytes := by
  constructor
  · intro h
    have h1 : m.map Prod.fst = List.range m.length := by simpa [Memory.wf] using h
    have h2 : (cellsAt 0 m.bytes).map Prod.fst = List.range m.length := by
      rw [cellsAt_indices, Memory.bytes, List.length_map, List.range_eq_range']
    have h3 : (cellsAt 0 m.bytes).map Prod.snd = m.bytes := by simp
    have hz : ∀ l : Memory, l = List.zip (l.map Prod.fst) (l.map Prod.snd) := by
      intro l; induction l with
      | nil => rfl
      | cons c l ih => simp only [List.map_cons, List.zip_cons_cons]; rw [← ih]
    calc m = List.zip (m.map Prod.fst) (m.map Prod.snd) := hz m
      _ = List.zip ((cellsAt 0 m.bytes).map Prod.fst) ((cellsAt 0 m.bytes).map Prod.snd) := by
        rw [h1, h2, h3]; rfl
      _ = cellsAt 0 m.bytes := (hz _).symm
  · intro h
    rw [h]
    simp [Memory.wf, cellsAt_indices, List.range_eq_range']

theorem Memory.wf_nil : Memory.wf [] = true := rfl

/-- MSG <- p gives a store in canonical form. -/
theorem Memory.assign_wf (p : List Byte) : (Memory.assign p).wf = true := by
  simp [Memory.wf, Memory.assign, cellsAt_indices, List.range_eq_range']

@[simp] theorem Memory.assign_bytes (p : List Byte) : (Memory.assign p).bytes = p := by
  simp [Memory.bytes, Memory.assign]

@[simp] theorem Memory.assign_length (p : List Byte) : (Memory.assign p).length = p.length := by
  simp [Memory.assign]

@[simp] theorem Memory.append_bytes (m : Memory) (p : List Byte) :
    (m.append p).bytes = m.bytes ++ p := by
  simp [Memory.bytes, Memory.append]

@[simp] theorem Memory.append_length (m : Memory) (p : List Byte) :
    (m.append p).length = m.length + p.length := by
  simp [Memory.append]

@[simp] theorem Memory.bytes_length (m : Memory) : m.bytes.length = m.length := by
  simp [Memory.bytes]

/-- MSG <- MSG ‖ p keeps the canonical form. -/
theorem Memory.append_wf (m : Memory) (p : List Byte) (h : m.wf = true) :
    (m.append p).wf = true := by
  have hm := (Memory.wf_iff m).mp h
  rw [Memory.wf_iff, Memory.append_bytes, cellsAt_append, ← hm, Memory.append]
  simp

/-- In canonical form a read at index i gives byte i, and no value outside 0 .. MLEN-1. -/
theorem Memory.read_of_wf (m : Memory) (h : m.wf = true) (i : Nat) : m.read i = m.bytes[i]? := by
  have hm := (Memory.wf_iff m).mp h
  rw [Memory.read, hm, lookup_cellsAt]
  simp [Memory.bytes]

/-! ### LANE carries no value from one use to the next (R31) -/

/-- ENC64 writes all of LANE: what LANE held before is lost. -/
theorem enc64_overwrites (le : Bool) (x : BitVec 64) (lane lane' : Vector Byte 8) :
    enc64 le x lane = enc64 le x lane' := by
  have h : nativeWrite le 8 x.toNat lane = nativeWrite le 8 x.toNat lane' := by
    apply vector_ext
    intro i hi
    simp [nativeWrite]
  simp only [enc64, h]

/-- NORM32 writes LANE[0..3] whole: of two NORM32 in a row only the second is left. -/
theorem norm32Lane_overwrites (le : Bool) (b c : Vector Byte 4) (lane : Vector Byte 8) :
    norm32Lane le c (norm32Lane le b lane) = norm32Lane le c lane := by
  apply vector_ext
  intro i hi
  by_cases h : i < 4
  · have h' : 3 - i < 4 := by omega
    cases le <;> simp [norm32Lane, reverseLane, stage4, h, h']
  · cases le <;> simp [norm32Lane, reverseLane, stage4, h]

/-- A block of the padded message is read byte by byte from the store whenever the store is in canonical
form and the block exists. -/
theorem State.pbyte_isSome (s : State) (hw : s.msg.wf = true) (i : Nat) (hi : i < 64 * s.nblk) :
    (s.pbyte i).isSome = true := by
  unfold State.pbyte
  split
  · rw [Memory.read_of_wf _ hw, List.getElem?_eq_getElem (by simpa [State.mlen] using ‹_›)]; rfl
  · split
    · rfl
    · split
      · rfl
      · rw [Vector.getElem?_eq_getElem (by omega)]; rfl

theorem State.readBlock_eq (s : State) (hw : s.msg.wf = true) (hb : s.bi < s.nblk) :
    s.readBlock = some (tabulate (fun k => (s.pbyte (64 * s.bi + k.val)).getD 0)) := by
  have h : ∀ k, k < 64 → (s.pbyte (64 * s.bi + k)).isSome = true :=
    fun k hk => s.pbyte_isSome hw _ (by omega)
  unfold State.readBlock
  rw [if_pos]
  simpa [List.all_eq_true] using h

/-! ### Blocks and schedules -/

theorem blockCount_pos (n : Nat) : 0 < blockCount n := Nat.succ_pos _

/-- A longer message has no fewer blocks. -/
theorem blockCount_mono {m n : Nat} (h : m ≤ n) : blockCount m ≤ blockCount n := by
  unfold blockCount; omega

/-- The padded length leaves room for the marker and the trailer (R120). -/
theorem blockCount_room (n : Nat) : n + 9 ≤ 64 * blockCount n := by
  unfold blockCount; omega

theorem scheduleList_getElem_stable (b : Vector Byte 64) (n k i : Nat) (h : i < n) :
    (scheduleList b (n + k))[i]? = (scheduleList b n)[i]? := by
  induction k with
  | zero => rfl
  | succ k ih =>
    rw [← Nat.add_assoc, scheduleList, List.getElem?_append_left, ih]
    rw [scheduleList_length]; omega

/-- Word i of a schedule is the word computed from the ones before it. -/
theorem schedule_getElem (b : Vector Byte 64) (i : Nat) (h : i < 64) :
    (schedule b)[i] = scheduleWord b (scheduleList b i) i := by
  have h1 : (scheduleList b 64)[i]? = some (scheduleWord b (scheduleList b i) i) := by
    have e : 64 = (i + 1) + (63 - i) := by omega
    rw [e, scheduleList_getElem_stable b (i + 1) (63 - i) i (Nat.lt_succ_self i), scheduleList,
      List.getElem?_append_right (by rw [scheduleList_length])]
    simp [scheduleList_length]
  have h2 : i < (scheduleList b 64).length := by rw [scheduleList_length]; exact h
  simpa [schedule, Vector.getElem_mk, List.getElem?_eq_getElem h2] using h1

/-- Inside the first n words, the list and the vector agree. -/
theorem scheduleList_getElem (b : Vector Byte 64) (n i : Nat) (h : i < n) (hn : n ≤ 64) :
    (scheduleList b n)[i]? = some ((schedule b)[i]'(by omega)) := by
  have e : 64 = n + (64 - n) := by omega
  have h2 : i < (scheduleList b 64).length := by rw [scheduleList_length]; omega
  rw [← scheduleList_getElem_stable b n (64 - n) i h, ← e, List.getElem?_eq_getElem h2]
  simp [schedule, Vector.getElem_mk]

end Sys2Proof.Machine
end

