-- ==== Sys2Proof/Laws/State.lean ====
section
/-! SUPPORT. What each named update of the state does to each field: one lemma per field, true by
unfolding, so that no later proof unfolds a record update. -/

namespace Sys2Proof.Machine

open Sys2Proof

@[simp] theorem State.send_h (s : State) (f : Frame) : (s.send f).h = s.h := rfl
@[simp] theorem State.send_v (s : State) (f : Frame) : (s.send f).v = s.v := rfl
@[simp] theorem State.send_w (s : State) (f : Frame) : (s.send f).w = s.w := rfl
@[simp] theorem State.send_msg (s : State) (f : Frame) : (s.send f).msg = s.msg := rfl
@[simp] theorem State.send_bitlen (s : State) (f : Frame) : (s.send f).bitlen = s.bitlen := rfl
@[simp] theorem State.send_nblk (s : State) (f : Frame) : (s.send f).nblk = s.nblk := rfl
@[simp] theorem State.send_bi (s : State) (f : Frame) : (s.send f).bi = s.bi := rfl
@[simp] theorem State.send_t (s : State) (f : Frame) : (s.send f).t = s.t := rfl
@[simp] theorem State.send_phase (s : State) (f : Frame) : (s.send f).phase = s.phase := rfl
@[simp] theorem State.send_blk (s : State) (f : Frame) : (s.send f).blk = s.blk := rfl
@[simp] theorem State.send_lane (s : State) (f : Frame) : (s.send f).lane = s.lane := rfl
@[simp] theorem State.send_digest (s : State) (f : Frame) : (s.send f).digest = s.digest := rfl
@[simp] theorem State.send_le (s : State) (f : Frame) : (s.send f).le = s.le := rfl
@[simp] theorem State.send_fault (s : State) (f : Frame) : (s.send f).fault = s.fault := rfl
@[simp] theorem State.send_busy (s : State) (f : Frame) : (s.send f).busy = s.busy := rfl
@[simp] theorem State.send_dvalid (s : State) (f : Frame) : (s.send f).dvalid = s.dvalid := rfl
@[simp] theorem State.send_cmd (s : State) (f : Frame) : (s.send f).cmd = s.cmd := rfl
@[simp] theorem State.send_rsp (s : State) (f : Frame) : (s.send f).rsp = s.rsp ++ [f] := rfl
@[simp] theorem State.send_running (s : State) (f : Frame) : (s.send f).running = s.running := rfl
@[simp] theorem State.send_unitOut (s : State) (f : Frame) : (s.send f).unitOut = s.unitOut := rfl
@[simp] theorem State.send_params (s : State) (f : Frame) : (s.send f).params = s.params := rfl

@[simp] theorem State.raise_h (s : State) (c : FaultCode) : (s.raise c).h = s.h := rfl
@[simp] theorem State.raise_v (s : State) (c : FaultCode) : (s.raise c).v = s.v := rfl
@[simp] theorem State.raise_w (s : State) (c : FaultCode) : (s.raise c).w = s.w := rfl
@[simp] theorem State.raise_msg (s : State) (c : FaultCode) : (s.raise c).msg = s.msg := rfl
@[simp] theorem State.raise_bitlen (s : State) (c : FaultCode) : (s.raise c).bitlen = s.bitlen := rfl
@[simp] theorem State.raise_nblk (s : State) (c : FaultCode) : (s.raise c).nblk = s.nblk := rfl
@[simp] theorem State.raise_bi (s : State) (c : FaultCode) : (s.raise c).bi = s.bi := rfl
@[simp] theorem State.raise_t (s : State) (c : FaultCode) : (s.raise c).t = s.t := rfl
@[simp] theorem State.raise_phase (s : State) (c : FaultCode) : (s.raise c).phase = .halt := rfl
@[simp] theorem State.raise_blk (s : State) (c : FaultCode) : (s.raise c).blk = s.blk := rfl
@[simp] theorem State.raise_lane (s : State) (c : FaultCode) : (s.raise c).lane = s.lane := rfl
@[simp] theorem State.raise_digest (s : State) (c : FaultCode) : (s.raise c).digest = s.digest := rfl
@[simp] theorem State.raise_le (s : State) (c : FaultCode) : (s.raise c).le = s.le := rfl
@[simp] theorem State.raise_fault (s : State) (c : FaultCode) : (s.raise c).fault = c := rfl
@[simp] theorem State.raise_busy (s : State) (c : FaultCode) : (s.raise c).busy = s.busy := rfl
@[simp] theorem State.raise_dvalid (s : State) (c : FaultCode) : (s.raise c).dvalid = s.dvalid := rfl
@[simp] theorem State.raise_cmd (s : State) (c : FaultCode) : (s.raise c).cmd = s.cmd := rfl
@[simp] theorem State.raise_rsp (s : State) (c : FaultCode) : (s.raise c).rsp = s.rsp ++ [[faultStatus c]] := rfl
@[simp] theorem State.raise_running (s : State) (c : FaultCode) : (s.raise c).running = s.running := rfl
@[simp] theorem State.raise_unitOut (s : State) (c : FaultCode) : (s.raise c).unitOut = s.unitOut := rfl
@[simp] theorem State.raise_params (s : State) (c : FaultCode) : (s.raise c).params = s.params := rfl

@[simp] theorem State.answerHalted_h (s : State) : (s.answerHalted).h = s.h := rfl
@[simp] theorem State.answerHalted_v (s : State) : (s.answerHalted).v = s.v := rfl
@[simp] theorem State.answerHalted_w (s : State) : (s.answerHalted).w = s.w := rfl
@[simp] theorem State.answerHalted_msg (s : State) : (s.answerHalted).msg = s.msg := rfl
@[simp] theorem State.answerHalted_bitlen (s : State) : (s.answerHalted).bitlen = s.bitlen := rfl
@[simp] theorem State.answerHalted_nblk (s : State) : (s.answerHalted).nblk = s.nblk := rfl
@[simp] theorem State.answerHalted_bi (s : State) : (s.answerHalted).bi = s.bi := rfl
@[simp] theorem State.answerHalted_t (s : State) : (s.answerHalted).t = s.t := rfl
@[simp] theorem State.answerHalted_phase (s : State) : (s.answerHalted).phase = s.phase := rfl
@[simp] theorem State.answerHalted_blk (s : State) : (s.answerHalted).blk = s.blk := rfl
@[simp] theorem State.answerHalted_lane (s : State) : (s.answerHalted).lane = s.lane := rfl
@[simp] theorem State.answerHalted_digest (s : State) : (s.answerHalted).digest = s.digest := rfl
@[simp] theorem State.answerHalted_le (s : State) : (s.answerHalted).le = s.le := rfl
@[simp] theorem State.answerHalted_fault (s : State) : (s.answerHalted).fault = s.fault := rfl
@[simp] theorem State.answerHalted_busy (s : State) : (s.answerHalted).busy = s.busy := rfl
@[simp] theorem State.answerHalted_dvalid (s : State) : (s.answerHalted).dvalid = s.dvalid := rfl
@[simp] theorem State.answerHalted_cmd (s : State) : (s.answerHalted).cmd = s.cmd := rfl
@[simp] theorem State.answerHalted_rsp (s : State) : (s.answerHalted).rsp = s.rsp ++ [[faultStatus s.fault]] := rfl
@[simp] theorem State.answerHalted_running (s : State) : (s.answerHalted).running = s.running := rfl
@[simp] theorem State.answerHalted_unitOut (s : State) : (s.answerHalted).unitOut = s.unitOut := rfl
@[simp] theorem State.answerHalted_params (s : State) : (s.answerHalted).params = s.params := rfl

@[simp] theorem State.hold_h (s : State) (f : Frame) : (s.hold f).h = s.h := rfl
@[simp] theorem State.hold_v (s : State) (f : Frame) : (s.hold f).v = s.v := rfl
@[simp] theorem State.hold_w (s : State) (f : Frame) : (s.hold f).w = s.w := rfl
@[simp] theorem State.hold_msg (s : State) (f : Frame) : (s.hold f).msg = s.msg := rfl
@[simp] theorem State.hold_bitlen (s : State) (f : Frame) : (s.hold f).bitlen = s.bitlen := rfl
@[simp] theorem State.hold_nblk (s : State) (f : Frame) : (s.hold f).nblk = s.nblk := rfl
@[simp] theorem State.hold_bi (s : State) (f : Frame) : (s.hold f).bi = s.bi := rfl
@[simp] theorem State.hold_t (s : State) (f : Frame) : (s.hold f).t = s.t := rfl
@[simp] theorem State.hold_phase (s : State) (f : Frame) : (s.hold f).phase = s.phase := rfl
@[simp] theorem State.hold_blk (s : State) (f : Frame) : (s.hold f).blk = s.blk := rfl
@[simp] theorem State.hold_lane (s : State) (f : Frame) : (s.hold f).lane = s.lane := rfl
@[simp] theorem State.hold_digest (s : State) (f : Frame) : (s.hold f).digest = s.digest := rfl
@[simp] theorem State.hold_le (s : State) (f : Frame) : (s.hold f).le = s.le := rfl
@[simp] theorem State.hold_fault (s : State) (f : Frame) : (s.hold f).fault = s.fault := rfl
@[simp] theorem State.hold_busy (s : State) (f : Frame) : (s.hold f).busy = s.busy := rfl
@[simp] theorem State.hold_dvalid (s : State) (f : Frame) : (s.hold f).dvalid = s.dvalid := rfl
@[simp] theorem State.hold_cmd (s : State) (f : Frame) : (s.hold f).cmd = f :: s.cmd := rfl
@[simp] theorem State.hold_rsp (s : State) (f : Frame) : (s.hold f).rsp = s.rsp := rfl
@[simp] theorem State.hold_running (s : State) (f : Frame) : (s.hold f).running = s.running := rfl
@[simp] theorem State.hold_unitOut (s : State) (f : Frame) : (s.hold f).unitOut = s.unitOut := rfl
@[simp] theorem State.hold_params (s : State) (f : Frame) : (s.hold f).params = s.params := rfl

@[simp] theorem State.hostOffer_h (s : State) (f : Frame) : (s.hostOffer f).h = s.h := rfl
@[simp] theorem State.hostOffer_v (s : State) (f : Frame) : (s.hostOffer f).v = s.v := rfl
@[simp] theorem State.hostOffer_w (s : State) (f : Frame) : (s.hostOffer f).w = s.w := rfl
@[simp] theorem State.hostOffer_msg (s : State) (f : Frame) : (s.hostOffer f).msg = s.msg := rfl
@[simp] theorem State.hostOffer_bitlen (s : State) (f : Frame) : (s.hostOffer f).bitlen = s.bitlen := rfl
@[simp] theorem State.hostOffer_nblk (s : State) (f : Frame) : (s.hostOffer f).nblk = s.nblk := rfl
@[simp] theorem State.hostOffer_bi (s : State) (f : Frame) : (s.hostOffer f).bi = s.bi := rfl
@[simp] theorem State.hostOffer_t (s : State) (f : Frame) : (s.hostOffer f).t = s.t := rfl
@[simp] theorem State.hostOffer_phase (s : State) (f : Frame) : (s.hostOffer f).phase = s.phase := rfl
@[simp] theorem State.hostOffer_blk (s : State) (f : Frame) : (s.hostOffer f).blk = s.blk := rfl
@[simp] theorem State.hostOffer_lane (s : State) (f : Frame) : (s.hostOffer f).lane = s.lane := rfl
@[simp] theorem State.hostOffer_digest (s : State) (f : Frame) : (s.hostOffer f).digest = s.digest := rfl
@[simp] theorem State.hostOffer_le (s : State) (f : Frame) : (s.hostOffer f).le = s.le := rfl
@[simp] theorem State.hostOffer_fault (s : State) (f : Frame) : (s.hostOffer f).fault = s.fault := rfl
@[simp] theorem State.hostOffer_busy (s : State) (f : Frame) : (s.hostOffer f).busy = s.busy := rfl
@[simp] theorem State.hostOffer_dvalid (s : State) (f : Frame) : (s.hostOffer f).dvalid = s.dvalid := rfl
@[simp] theorem State.hostOffer_cmd (s : State) (f : Frame) : (s.hostOffer f).cmd = s.cmd ++ [f] := rfl
@[simp] theorem State.hostOffer_rsp (s : State) (f : Frame) : (s.hostOffer f).rsp = s.rsp := rfl
@[simp] theorem State.hostOffer_running (s : State) (f : Frame) : (s.hostOffer f).running = s.running := rfl
@[simp] theorem State.hostOffer_unitOut (s : State) (f : Frame) : (s.hostOffer f).unitOut = s.unitOut := rfl
@[simp] theorem State.hostOffer_params (s : State) (f : Frame) : (s.hostOffer f).params = s.params := rfl

@[simp] theorem State.startHash_h (s : State) (p : List Byte) : (s.startHash p).h = s.h := rfl
@[simp] theorem State.startHash_v (s : State) (p : List Byte) : (s.startHash p).v = s.v := rfl
@[simp] theorem State.startHash_w (s : State) (p : List Byte) : (s.startHash p).w = s.w := rfl
@[simp] theorem State.startHash_msg (s : State) (p : List Byte) : (s.startHash p).msg = Memory.assign p := rfl
@[simp] theorem State.startHash_bitlen (s : State) (p : List Byte) : (s.startHash p).bitlen = s.bitlen := rfl
@[simp] theorem State.startHash_nblk (s : State) (p : List Byte) : (s.startHash p).nblk = s.nblk := rfl
@[simp] theorem State.startHash_bi (s : State) (p : List Byte) : (s.startHash p).bi = s.bi := rfl
@[simp] theorem State.startHash_t (s : State) (p : List Byte) : (s.startHash p).t = s.t := rfl
@[simp] theorem State.startHash_phase (s : State) (p : List Byte) : (s.startHash p).phase = .pad := rfl
@[simp] theorem State.startHash_blk (s : State) (p : List Byte) : (s.startHash p).blk = s.blk := rfl
@[simp] theorem State.startHash_lane (s : State) (p : List Byte) : (s.startHash p).lane = s.lane := rfl
@[simp] theorem State.startHash_digest (s : State) (p : List Byte) : (s.startHash p).digest = s.digest := rfl
@[simp] theorem State.startHash_le (s : State) (p : List Byte) : (s.startHash p).le = s.le := rfl
@[simp] theorem State.startHash_fault (s : State) (p : List Byte) : (s.startHash p).fault = s.fault := rfl
@[simp] theorem State.startHash_busy (s : State) (p : List Byte) : (s.startHash p).busy = true := rfl
@[simp] theorem State.startHash_dvalid (s : State) (p : List Byte) : (s.startHash p).dvalid = false := rfl
@[simp] theorem State.startHash_cmd (s : State) (p : List Byte) : (s.startHash p).cmd = s.cmd := rfl
@[simp] theorem State.startHash_rsp (s : State) (p : List Byte) : (s.startHash p).rsp = s.rsp := rfl
@[simp] theorem State.startHash_running (s : State) (p : List Byte) : (s.startHash p).running = .hash := rfl
@[simp] theorem State.startHash_unitOut (s : State) (p : List Byte) : (s.startHash p).unitOut = s.unitOut := rfl
@[simp] theorem State.startHash_params (s : State) (p : List Byte) : (s.startHash p).params = s.params := rfl

@[simp] theorem State.startUpdate_h (s : State) (p : List Byte) : (s.startUpdate p).h = s.h := rfl
@[simp] theorem State.startUpdate_v (s : State) (p : List Byte) : (s.startUpdate p).v = s.v := rfl
@[simp] theorem State.startUpdate_w (s : State) (p : List Byte) : (s.startUpdate p).w = s.w := rfl
@[simp] theorem State.startUpdate_msg (s : State) (p : List Byte) : (s.startUpdate p).msg = s.msg.append p := rfl
@[simp] theorem State.startUpdate_bitlen (s : State) (p : List Byte) : (s.startUpdate p).bitlen = s.bitlen := rfl
@[simp] theorem State.startUpdate_nblk (s : State) (p : List Byte) : (s.startUpdate p).nblk = s.nblk := rfl
@[simp] theorem State.startUpdate_bi (s : State) (p : List Byte) : (s.startUpdate p).bi = s.bi := rfl
@[simp] theorem State.startUpdate_t (s : State) (p : List Byte) : (s.startUpdate p).t = s.t := rfl
@[simp] theorem State.startUpdate_phase (s : State) (p : List Byte) : (s.startUpdate p).phase = .pad := rfl
@[simp] theorem State.startUpdate_blk (s : State) (p : List Byte) : (s.startUpdate p).blk = s.blk := rfl
@[simp] theorem State.startUpdate_lane (s : State) (p : List Byte) : (s.startUpdate p).lane = s.lane := rfl
@[simp] theorem State.startUpdate_digest (s : State) (p : List Byte) : (s.startUpdate p).digest = s.digest := rfl
@[simp] theorem State.startUpdate_le (s : State) (p : List Byte) : (s.startUpdate p).le = s.le := rfl
@[simp] theorem State.startUpdate_fault (s : State) (p : List Byte) : (s.startUpdate p).fault = s.fault := rfl
@[simp] theorem State.startUpdate_busy (s : State) (p : List Byte) : (s.startUpdate p).busy = true := rfl
@[simp] theorem State.startUpdate_dvalid (s : State) (p : List Byte) : (s.startUpdate p).dvalid = false := rfl
@[simp] theorem State.startUpdate_cmd (s : State) (p : List Byte) : (s.startUpdate p).cmd = s.cmd := rfl
@[simp] theorem State.startUpdate_rsp (s : State) (p : List Byte) : (s.startUpdate p).rsp = s.rsp := rfl
@[simp] theorem State.startUpdate_running (s : State) (p : List Byte) : (s.startUpdate p).running = .update := rfl
@[simp] theorem State.startUpdate_unitOut (s : State) (p : List Byte) : (s.startUpdate p).unitOut = s.unitOut := rfl
@[simp] theorem State.startUpdate_params (s : State) (p : List Byte) : (s.startUpdate p).params = s.params := rfl

end Sys2Proof.Machine
end

