-- ==== Sys2Proof/Laws/Exec.lean ====
section
/-! SUPPORT. What a step can do, said once: which meaning each phase runs, and the cases of ACCEPT and of
the shared command operations. -/

namespace Sys2Proof.Machine

open Sys2Proof

variable {s t : State}

/-! ### The meaning a phase runs (R206) -/

theorem step_idle (h : s.phase = .idle) : step s = execAccept s := by
  simp [step, h, Phase.code, decode, decodePhase, exec]

theorem step_pad (h : s.phase = .pad) : step s = execPad s := by
  simp [step, h, Phase.code, decode, decodePhase, exec]

theorem step_seed (h : s.phase = .seed) : step s = execSeed s := by
  simp [step, h, Phase.code, decode, decodePhase, exec]

theorem step_ldblk (h : s.phase = .ldblk) : step s = execLdblk s := by
  simp [step, h, Phase.code, decode, decodePhase, exec]

theorem step_ldw (h : s.phase = .ldw) : step s = execLdw s := by
  simp [step, h, Phase.code, decode, decodePhase, exec]

theorem step_expand (h : s.phase = .expand) : step s = execExpand s := by
  simp [step, h, Phase.code, decode, decodePhase, exec]

theorem step_initv (h : s.phase = .initv) : step s = execInitv s := by
  simp [step, h, Phase.code, decode, decodePhase, exec]

theorem step_round (h : s.phase = .round) : step s = execRound s := by
  simp [step, h, Phase.code, decode, decodePhase, exec]

theorem step_chain (h : s.phase = .chain) : step s = execChain s := by
  simp [step, h, Phase.code, decode, decodePhase, exec]

theorem step_serialize (h : s.phase = .serialize) : step s = execSerialize s := by
  simp [step, h, Phase.code, decode, decodePhase, exec]

theorem step_halt (h : s.phase = .halt) : step s = execAcceptHalt s := by
  simp [step, h, Phase.code, decode, decodePhase, exec]

/-! ### ACCEPT -/

/-- The halted form always answers a next state: it waits, or it answers one frame. -/
theorem execAcceptHalt_cases (s : State) :
    execAcceptHalt s = .next s
      ∨ ∃ f rest, s.cmd = f :: rest ∧ s.busy = false ∧ s.phase = .halt
          ∧ execAcceptHalt s = .next ({ s with cmd := rest }.dispatchHalted (decodeFrame f)) := by
  unfold execAcceptHalt
  split
  · exact .inl rfl
  · rename_i f rest hc
    split
    · rename_i h
      exact .inr ⟨f, rest, hc, by simpa [State.ready] using h.1, h.2, rfl⟩
    · exact .inl rfl

/-- In IDLE, ACCEPT waits for a frame or dispatches one. -/
theorem execAccept_idle (h : s.phase = .idle) :
    execAccept s = .next s
      ∨ ∃ f rest, s.cmd = f :: rest ∧ s.busy = false
          ∧ execAccept s = .next ({ s with cmd := rest }.dispatch (decodeFrame f)) := by
  unfold execAccept
  split
  · exact .inl rfl
  · rename_i f rest hc
    split
    · rename_i hr
      exact .inr ⟨f, rest, hc, by simpa [State.ready] using hr.1, rfl⟩
    · rcases execAcceptHalt_cases s with h1 | ⟨_, _, _, _, hp, _⟩
      · exact .inl h1
      · simp [h] at hp

/-- What a dispatched frame can do in IDLE (R200): raise a fault, start a computation, or answer. -/
theorem State.dispatch_cases (s : State) (d : Decoded Command) :
    (∃ c, c ≠ .none ∧ s.dispatch d = s.raise c)
      ∨ (∃ p, d = .ok (.hash p) ∧ p.length ≤ s.params.maxBytes.val ∧ s.dispatch d = s.startHash p)
      ∨ (∃ p, d = .ok (.update p) ∧ s.mlen + p.length ≤ s.params.maxBytes.val
          ∧ s.dispatch d = s.startUpdate p)
      ∨ (∃ f, s.dispatch d = s.send f) := by
  match d with
  | .illegal _ => exact .inl ⟨.illegal, by decide, rfl⟩
  | .ok (.hash p) =>
    by_cases h : s.hashTooLong p = true
    · exact .inl ⟨.tooLong, by decide, by simp [State.dispatch, h]⟩
    · refine .inr (.inl ⟨p, rfl, ?_, by simp [State.dispatch, h]⟩)
      simpa [State.hashTooLong] using h
  | .ok (.update p) =>
    by_cases h : s.updateTooLong p = true
    · exact .inl ⟨.tooLong, by decide, by simp [State.dispatch, h]⟩
    · refine .inr (.inr (.inl ⟨p, rfl, ?_, by simp [State.dispatch, h]⟩))
      simpa [State.updateTooLong] using h
  | .ok .digest =>
    by_cases h : s.dvalid = true
    · exact .inr (.inr (.inr ⟨s.digestResponse, by simp [State.dispatch, State.digestEffect, h]⟩))
    · exact .inl ⟨.noDigest, by decide, by simp [State.dispatch, State.digestEffect, h]⟩
  | .ok .status => exact .inr (.inr (.inr ⟨s.statusResponse, rfl⟩))

/-- What a frame can do in HALT (R248): it is answered, and nothing else changes. -/
theorem State.dispatchHalted_cases (s : State) (d : Decoded Command) :
    ∃ f, s.dispatchHalted d = s.send f := by
  match d with
  | .illegal _ => exact ⟨_, rfl⟩
  | .ok (.hash _) => exact ⟨_, rfl⟩
  | .ok (.update _) => exact ⟨_, rfl⟩
  | .ok .digest => exact ⟨_, rfl⟩
  | .ok .status => exact ⟨_, rfl⟩

/-! ### Commands -/

/-- A command other than STATUS: its own effect in IDLE, the halted answer in HALT, waiting otherwise. -/
theorem State.command_idle (c : Command) (effect : State → State)
    (hp : s.phase = .idle) (hb : s.busy = false) : s.command c effect = effect s := by
  simp [State.command, State.accepting, State.ready, Phase.computing, hp, hb]

theorem State.command_halt (c : Command) (effect : State → State)
    (hp : s.phase = .halt) (hb : s.busy = false) : s.command c effect = s.answerHalted := by
  simp [State.command, State.accepting, State.ready, Phase.computing, hp, hb]

theorem State.command_waits (c : Command) (effect : State → State)
    (h : s.accepting = false) : s.command c effect = s.hold (encodeFrame c) := by
  simp [State.command, h]

/-! ### The invariant, clause by clause -/

theorem State.inv_iff (s : State) :
    s.Inv = true ↔
      s.msg.wf = true ∧ s.mlen ≤ s.params.maxBytes.val ∧ s.le = s.params.platformLE
        ∧ s.busy = s.phase.computing ∧ (s.running != .none) = s.phase.computing
        ∧ (s.fault != .none) = (s.phase == .halt) ∧ (s.dvalid && s.phase.computing) = false
        ∧ s.bi ≤ s.nblk ∧ s.nblk ≤ blockCount s.params.maxBytes.val ∧ s.positionOk = true ∧ s.lengthsOk = true := by
  cases hd : s.dvalid <;> cases hc : s.phase.computing <;> simp [State.Inv, hd, hc, and_assoc]

/-! ### Steps of a run -/

theorem runSteps_add (m n : Nat) (s : State) :
    runSteps (m + n) s =
      match runSteps m s with
      | .next t => runSteps n t
      | .fault r => .fault r
      | .refused r => .refused r := by
  induction m generalizing s with
  | zero => simp [runSteps]
  | succ m ih =>
    rw [Nat.add_right_comm, runSteps]
    cases h : step s with
    | next u => simp only [runSteps, h]; exact ih u
    | fault r => simp [runSteps, h]
    | refused r => simp [runSteps, h]

/-- Two runs one after another. -/
theorem runSteps_trans {m n : Nat} {u : State} (h1 : runSteps m s = .next t)
    (h2 : runSteps n t = .next u) : runSteps (m + n) s = .next u := by
  rw [runSteps_add, h1]; exact h2

theorem runSteps_one (h : step s = .next t) : runSteps 1 s = .next t := by
  simp [runSteps, h]

end Sys2Proof.Machine
end

