-- ==== Sys2Proof/Laws/PerInstr.lean ====
section
/-! SUPPORT. Per instruction: its code's selecting bits are those of its row of spec/opcode_table.json. -/

namespace Sys2Proof.Laws.TableRow

open Sys2Proof

/-- The selecting bits of a code as a number with its width: byte 0 of a frame, the phase code, the unit
select (columns width_bits and match of the table). -/
def select : Code → Option (Nat × Nat)
  | .frame [] => none
  | .frame (b :: _) => some (8, b.toNat)
  | .phase c => some (4, c.toNat)
  | .unit c _ _ => some (3, c.toNat)

/-- The row of the table: width_bits and match. -/
def row : Instr → Nat × Nat
  | .hash _ => (8, 0x01)
  | .update _ => (8, 0x02)
  | .digest => (8, 0x03)
  | .status => (8, 0x04)
  | .accept => (4, 0x0)
  | .pad => (4, 0x1)
  | .seed => (4, 0x2)
  | .ldblk => (4, 0x3)
  | .ldw => (4, 0x4)
  | .expand => (4, 0x5)
  | .initv => (4, 0x6)
  | .round => (4, 0x7)
  | .chain => (4, 0x8)
  | .serialize => (4, 0x9)
  | .acceptHalt => (4, 0xf)
  | .detect => (3, 0x0)
  | .rev _ => (3, 0x2)
  | .rotr _ _ => (3, 0x4)
  | .rotl _ _ => (3, 0x5)

/-- The code the encoder gives an instruction has the selecting bits of the instruction's row. -/
def Statement (i : Instr) : Prop := select (encode i) = some (row i)

theorem hash (p : List Byte) : Statement (.hash p) := rfl
theorem update (p : List Byte) : Statement (.update p) := rfl
theorem digest : Statement .digest := rfl
theorem status : Statement .status := rfl
theorem accept : Statement .accept := rfl
theorem pad : Statement .pad := rfl
theorem seed : Statement .seed := rfl
theorem ldblk : Statement .ldblk := rfl
theorem ldw : Statement .ldw := rfl
theorem expand : Statement .expand := rfl
theorem initv : Statement .initv := rfl
theorem round : Statement .round := rfl
theorem chain : Statement .chain := rfl
theorem serialize : Statement .serialize := rfl
theorem acceptHalt : Statement .acceptHalt := rfl
theorem detect : Statement .detect := rfl
theorem rev (n : Nat) : Statement (.rev n) := rfl
theorem rotr (x : Word) (n : Nat) : Statement (.rotr x n) := rfl
theorem rotl (x : Word) (n : Nat) : Statement (.rotl x n) := rfl

end Sys2Proof.Laws.TableRow
end

