-- ==== Sys2Proof/Tests/Slice0.lean ====
section
/-! SUPPORT. Tests: expected values are those of spec/ (30_encoding.md for the codes, 95_test_vectors.md
and the rules' own examples for the results), and for every statement with hypotheses a state and
operands that meet them. -/

namespace Sys2Proof.Tests

open Sys2Proof Sys2Proof.Machine

/-! ### States the tests start from -/

/-- After reset, on a little-endian platform whose store holds 8 bytes (program P6). -/
def tiny : State := State.resetWith ⟨true, ⟨8, by decide⟩⟩

/-- The same on a big-endian platform. -/
def tinyBE : State := State.resetWith ⟨false, ⟨8, by decide⟩⟩

/-- The message "abc". -/
def abc : List Byte := [0x61, 0x62, 0x63]

/-- Eight bytes, as many as `tiny` holds. -/
def eight : List Byte := [0x61, 0x62, 0x63, 0x64, 0x65, 0x66, 0x67, 0x68]

/-- An engine in IDLE that retains `abc` and has its digest. -/
def hashed : State :=
  { tiny with msg := Memory.assign abc, digest := sha256hex abc, dvalid := true }

/-- An engine halted by F_NODIGEST. -/
def halted : State := { tiny with phase := .halt, fault := .noDigest }

/-- An engine inside HASH "abc", at the given phase, BI and T. -/
def working (phase : Phase) (bi : Nat) (t : Fin 65) : State :=
  { tiny.startHash abc with
    bitlen := 24
    nblk := 1
    bi := bi
    t := t
    phase := phase
    h := hashState abc bi
    blk := messageBlock abc 0
    w := schedule (messageBlock abc 0)
    v := rounds (schedule (messageBlock abc 0)) (hashState abc 0) t.val }

/-- Whether a step answers a next state of which `p` holds. -/
def answers (o : Host.Outcome State Fault Refusal) (p : State → Bool) : Bool :=
  match o with
  | .next t => p t
  | .fault _ => false
  | .refused _ => false

/-! ### WellFormed: an ill-formed term for each check -/

theorem test_rev_of_nothing_ill_formed : (Instr.rev 0).wellFormed = false := by decide
theorem test_rev_beyond_lane_ill_formed : (Instr.rev 9).wellFormed = false := by decide
theorem test_rotr_full_width_ill_formed : (Instr.rotr 1 32).wellFormed = false := by decide
theorem test_rotl_full_width_ill_formed : (Instr.rotl 1 32).wellFormed = false := by decide

/-! ### Decoding: every constructor's code, written out from R73, R79 and R80 -/

theorem test_decode_hash :
    decode (.frame [0b00000001, 0x61, 0x62, 0x63]) = .ok (.hash [0x61, 0x62, 0x63]) := by decide
theorem test_decode_update : decode (.frame [0b00000010, 0x64]) = .ok (.update [0x64]) := by decide
theorem test_decode_rehash : decode (.frame [0b00000010]) = .ok (.update []) := by decide
theorem test_decode_digest : decode (.frame [0b00000011]) = .ok .digest := by decide
theorem test_decode_status : decode (.frame [0b00000100]) = .ok .status := by decide
theorem test_decode_accept : decode (.phase 0b0000) = .ok .accept := by decide
theorem test_decode_pad : decode (.phase 0b0001) = .ok .pad := by decide
theorem test_decode_seed : decode (.phase 0b0010) = .ok .seed := by decide
theorem test_decode_ldblk : decode (.phase 0b0011) = .ok .ldblk := by decide
theorem test_decode_ldw : decode (.phase 0b0100) = .ok .ldw := by decide
theorem test_decode_expand : decode (.phase 0b0101) = .ok .expand := by decide
theorem test_decode_initv : decode (.phase 0b0110) = .ok .initv := by decide
theorem test_decode_round : decode (.phase 0b0111) = .ok .round := by decide
theorem test_decode_chain : decode (.phase 0b1000) = .ok .chain := by decide
theorem test_decode_serialize : decode (.phase 0b1001) = .ok .serialize := by decide
theorem test_decode_acceptHalt : decode (.phase 0b1111) = .ok .acceptHalt := by decide
theorem test_decode_detect : decode (.unit 0b000 0 0) = .ok .detect := by decide
theorem test_decode_rev : decode (.unit 0b010 0 8) = .ok (.rev 8) := by decide
theorem test_decode_rotr : decode (.unit 0b100 0x12345678 4) = .ok (.rotr 0x12345678 4) := by decide
theorem test_decode_rotl : decode (.unit 0b101 0x12345678 4) = .ok (.rotl 0x12345678 4) := by decide

theorem test_reject_empty_frame : decode (.frame []) = .illegal .emptyFrame := by decide
theorem test_reject_opcode_zero : decode (.frame [0x00]) = .illegal .unassignedOpcode := by decide
theorem test_reject_opcode_five : decode (.frame [0x05]) = .illegal .unassignedOpcode := by decide
theorem test_reject_long_digest : decode (.frame [0x03, 0xff]) = .illegal .trailingBytes := by decide
theorem test_reject_phase_codes :
    decode (.phase 10) = .illegal .reservedPhase ∧ decode (.phase 14) = .illegal .reservedPhase := by
  decide
theorem test_reject_unit_codes :
    decode (.unit 0b001 0 0) = .illegal .unusedUnit ∧ decode (.unit 0b011 0 4) = .illegal .unusedUnit
      ∧ decode (.unit 0b111 0 4) = .illegal .unusedUnit := by decide
theorem test_reject_operands :
    decode (.unit 0b010 0 0) = .illegal .operandOutOfDomain
      ∧ decode (.unit 0b100 0 32) = .illegal .operandOutOfDomain := by decide

/-! ### The words of the opcode table, fetched right after reset -/

theorem test_table_words :
    decodeTableWord 8 0x01 = some (.hash []) ∧ decodeTableWord 8 0x02 = some (.update [])
      ∧ decodeTableWord 8 0x03 = some .digest ∧ decodeTableWord 8 0x04 = some .status
      ∧ decodeTableWord 4 0b0000 = some .accept ∧ decodeTableWord 4 0b0011 = some .ldblk
      ∧ decodeTableWord 4 0b1111 = some .acceptHalt ∧ decodeTableWord 3 0b000 = some .detect
      ∧ decodeTableWord 3 0b010 = some (.rev 4) ∧ decodeTableWord 3 0b101 = some (.rotl 0 4) := by
  decide
theorem test_fetch_hash : answers (step (State.reset.withFetchWord 8 0x01)) (·.phase == .pad) = true := by
  decide +kernel
theorem test_fetch_round : answers (step (State.reset.withFetchWord 4 0b0111)) (·.t == 1) = true := by
  decide +kernel
theorem test_fetch_acceptHalt :
    answers (step (State.reset.withFetchWord 4 0b1111)) (·.rsp == [[0x81]]) = true := by decide +kernel

/-! ### The functional units (95_test_vectors.md section 7, examples of R101 to R108) -/

theorem test_rotr : answers (exec (.rotr 0x12345678 4) tiny) (·.unitOut == 0x81234567) = true := by
  decide +kernel
theorem test_rotr_zero : answers (exec (.rotr 0x12345678 0) tiny) (·.unitOut == 0x12345678) = true := by
  decide +kernel
theorem test_rotl : answers (exec (.rotl 0x12345678 4) tiny) (·.unitOut == 0x23456781) = true := by
  decide +kernel
theorem test_rotl_top_bit : answers (exec (.rotl 0x80000000 1) tiny) (·.unitOut == 1) = true := by
  decide +kernel
theorem test_rev_four :
    answers (exec (.rev 4) { tiny with lane := #v[1, 2, 3, 4, 5, 6, 7, 8] })
      (·.lane == #v[4, 3, 2, 1, 5, 6, 7, 8]) = true := by decide +kernel
theorem test_rev_eight :
    answers (exec (.rev 8) { tiny with lane := #v[1, 2, 3, 4, 5, 6, 7, 8] })
      (·.lane == #v[8, 7, 6, 5, 4, 3, 2, 1]) = true := by decide +kernel
theorem test_detect : answers (exec .detect { tiny with le := false }) (·.le) = true := by decide +kernel
theorem test_shift_add : shiftRight 0xFFFFFFFF 10 = 0x003FFFFF ∧ add32 0x7FFFFFFF 1 = 0x80000000 := by
  decide
theorem test_native_read :
    nativeRead true 4 #v[0x61, 0x62, 0x63, 0x80, 0, 0, 0, 0] = 0x80636261
      ∧ nativeRead false 4 #v[0x61, 0x62, 0x63, 0x80, 0, 0, 0, 0] = 0x61626380 := by decide +kernel
theorem test_enc64 :
    enc64 true 0x123456789ABCDEF0 tiny.lane = #v[0x12, 0x34, 0x56, 0x78, 0x9a, 0xbc, 0xde, 0xf0] := by
  decide +kernel
theorem test_schedule_functions :
    ssig0 0x00000001 = 0x02004000 ∧ ssig0 0xFFFFFFFF = 0x1FFFFFFF
      ∧ ssig1 0x00000018 = 0x000F0000 ∧ ssig1 0xFFFFFFFF = 0x003FFFFF := by decide +kernel
theorem test_round_functions :
    bsig1 0x510E527F = 0x3587272B ∧ bsig0 0x6A09E667 = 0xCE20B47E
      ∧ ch 0x510E527F 0x9B05688C 0x1F83D9AB = 0x1F85C98C
      ∧ maj 0x6A09E667 0xBB67AE85 0x3C6EF372 = 0x3A6FE667 := by decide +kernel

/-! ### The micro-operations -/

/-- R126 and 95_test_vectors.md section 3: lengths 55, 56 and 64. -/
theorem test_block_counts :
    blockCount 0 = 1 ∧ blockCount 55 = 1 ∧ blockCount 56 = 2 ∧ blockCount 64 = 2 ∧ blockCount 119 = 2
      ∧ blockCount 120 = 3 := by decide
/-- The columns of R24's table, checked at both ends of each. -/
theorem test_round_constants :
    roundConstants[0] = 0x428a2f98 ∧ roundConstants[15] = 0xc19bf174 ∧ roundConstants[16] = 0xe49b69c1
      ∧ roundConstants[31] = 0x14292967 ∧ roundConstants[32] = 0x27b70a85 ∧ roundConstants[47] = 0x106aa070
      ∧ roundConstants[48] = 0x19a4c116 ∧ roundConstants[63] = 0xc67178f2 := by decide +kernel
theorem test_pad :
    answers (exec .pad (tiny.startHash abc))
      (fun t => t.bitlen == 0x18 && t.nblk == 1 && t.phase == .seed) = true := by decide +kernel
theorem test_seed :
    answers (exec .seed tiny) (fun t => t.h[0] == 0x6A09E667 && t.h[7] == 0x5BE0CD19) = true := by
  decide +kernel
theorem test_ldblk :
    answers (exec .ldblk (working .ldblk 0 0))
      (fun t => t.blk.toList == abc ++ [0x80] ++ List.replicate 59 0 ++ [0x18]) = true := by decide +kernel
theorem test_ldw_little_endian :
    answers (exec .ldw { tiny with blk := tiny.blk.set 63 0x18, t := 15 })
      (fun t => t.w[15] == 0x18 && t.phase == .expand && t.t == 16) = true := by decide +kernel
theorem test_ldw_big_endian :
    answers (exec .ldw { tinyBE with blk := messageBlock abc 0, t := 0 })
      (fun t => t.w[0] == 0x61626380 && t.phase == .ldw) = true := by decide +kernel
/-- 95_test_vectors.md section 4.1, T = 17. -/
theorem test_expand :
    answers (exec .expand { tiny with w := (tiny.w.set 15 0x18).set 16 0x61626380, t := 17 })
      (·.w[17] == 0x000f0000) = true := by decide +kernel
theorem test_initv : answers (exec .initv { tiny with h := initialHash }) (·.v[4] == 0x510E527F) = true := by
  decide +kernel
/-- The example of R162. -/
theorem test_round :
    answers (exec .round { tiny with v := initialHash, w := tiny.w.set 0 0x61626380, t := 0 })
      (·.v == #v[0x5D6AEBCD, 0x6A09E667, 0xBB67AE85, 0x3C6EF372,
        0xFA2A4622, 0x510E527F, 0x9B05688C, 0x1F83D9AB]) = true := by decide +kernel
/-- The example of R167. -/
theorem test_chain :
    answers (exec .chain { tiny with
        nblk := 1, h := initialHash
        v := #v[0x506E3058, 0xD39A2165, 0x04D24D6C, 0xB85E2CE9,
          0x5EF50F24, 0xFB121210, 0x948D25B6, 0x961F4894] })
      (fun t => t.phase == .serialize && t.h == #v[0xBA7816BF, 0x8F01CFEA, 0x414140DE, 0x5DAE2223,
        0xB00361A3, 0x96177A9C, 0xB410FF61, 0xF20015AD]) = true := by decide +kernel
/-- R191's example: the characters of "e3b0c442", then eight zeros. -/
theorem test_serialize :
    answers (exec .serialize { tiny with h := tiny.h.set 0 0xE3B0C442, running := .hash })
      (fun t => t.rsp == [0x00 :: ([0x65, 0x33, 0x62, 0x30, 0x63, 0x34, 0x34, 0x32]
        ++ List.replicate 56 0x30)]) = true := by decide +kernel
theorem test_accept_too_long :
    answers (exec .accept { tiny with msg := Memory.assign eight, cmd := [[0x02, 0x69]] })
      (fun t => t.rsp == [[0x83]] && t.mlen == 8 && t.phase == .halt) = true := by decide +kernel
theorem test_accept_illegal :
    answers (exec .accept { tiny with cmd := [[0x07]] })
      (fun t => t.rsp == [[0x81]] && t.fault == .illegal) = true := by decide +kernel
theorem test_acceptHalt_status :
    answers (exec .acceptHalt { halted with cmd := [[0x04]] })
      (·.rsp == [[0, 0, 0, 0x0f, 0x24, 0, 0, 0, 0, 0, 0, 0, 0]]) = true := by decide +kernel
theorem test_acceptHalt_hash :
    answers (exec .acceptHalt { halted with cmd := [0x01 :: abc] }) (·.rsp == [[0x82]]) = true := by
  decide +kernel

/-! ### The commands (programs P1, P4 to P6) -/

/-- The response of HASH "abc": the frame of 65 bytes that R201 gives. -/
theorem test_hash_abc :
    answers (exec (.hash abc) tinyBE) (fun t => t.rsp ==
      [[0x00,
        0x62, 0x61, 0x37, 0x38, 0x31, 0x36, 0x62, 0x66, 0x38, 0x66, 0x30, 0x31, 0x63, 0x66, 0x65, 0x61,
        0x34, 0x31, 0x34, 0x31, 0x34, 0x30, 0x64, 0x65, 0x35, 0x64, 0x61, 0x65, 0x32, 0x32, 0x32, 0x33,
        0x62, 0x30, 0x30, 0x33, 0x36, 0x31, 0x61, 0x33, 0x39, 0x36, 0x31, 0x37, 0x37, 0x61, 0x39, 0x63,
        0x62, 0x34, 0x31, 0x30, 0x66, 0x66, 0x36, 0x31, 0x66, 0x32, 0x30, 0x30, 0x31, 0x35, 0x61, 0x64]])
      = true := by decide +kernel
/-- HASH "" through UPDATE "" after reset (R202): the Working State of program P1's end. -/
theorem test_update_empty :
    answers (exec (.update []) tiny) (fun t => t.rsp == [[0x00]] && t.mlen == 0
      && t.h == #v[0xe3b0c442, 0x98fc1c14, 0x9afbf4c8, 0x996fb924,
        0x27ae41e4, 0x649b934c, 0xa495991b, 0x7852b855]) = true := by decide +kernel
theorem test_digest_before_hash :
    answers (exec .digest tiny) (fun t => t.rsp == [[0x82]] && t.phase == .halt) = true := by
  decide +kernel
theorem test_status_after_reset :
    answers (exec .status tiny) (·.rsp == [[0, 0, 0, 0, 4, 0, 0, 0, 0, 0, 0, 0, 0]]) = true := by
  decide +kernel

/-! ### Witnesses: for each statement with hypotheses, what meets them -/

theorem witness_decodeOfEncode :
    (Instr.rev 1).wellFormed = true ∧ (Instr.rev 8).wellFormed = true
      ∧ (Instr.rotr 0xFFFFFFFF 31).wellFormed = true ∧ (Instr.rotl 1 0).wellFormed = true := by decide

theorem witness_frameDecode :
    ((0x05 : Byte) ≠ 0x01 ∧ (0x05 : Byte) ≠ 0x02 ∧ ¬((0x05 : Byte) = 0x03 ∧ ([] : List Byte) = [])
        ∧ ¬((0x05 : Byte) = 0x04 ∧ ([] : List Byte) = []))
      ∧ ((0x04 : Byte) ≠ 0x01 ∧ (0x04 : Byte) ≠ 0x02 ∧ ¬((0x04 : Byte) = 0x03 ∧ [(0 : Byte)] = [])
        ∧ ¬((0x04 : Byte) = 0x04 ∧ [(0 : Byte)] = []))
      ∧ decodeFrame [0x01] = .ok (.hash []) := by decide

theorem witness_illegalFrames :
    let s : State := { tiny with cmd := [[0x04, 0x00]] }
    s.phase = .idle ∧ s.busy = false ∧ s.cmd = [0x04, 0x00] :: []
      ∧ decodeFrame [0x04, 0x00] = .illegal .trailingBytes := by decide

/-- Rotation amounts and bit numbers at the ends of their ranges. -/
theorem witness_bits_and_amounts : 0 ≤ 31 ∧ 31 ≤ 31 ∧ 0 < 32 ∧ 31 < 32 ∧ ¬ (31 + 3 < 32) ∧ 28 + 3 < 32 := by
  decide

theorem witness_nativeLane :
    (4 = 4 ∨ 4 = 8) ∧ (8 = 4 ∨ 8 = 8) ∧ 2 ^ 32 - 1 < 2 ^ (8 * 4) ∧ 2 ^ 64 - 1 < 2 ^ (8 * 8) ∧ 4 ≤ 8 ∧ 8 ≤ 8
      ∧ (3 : Fin 8).val < 4 ∧ 4 ≤ (4 : Fin 8).val ∧ (7 : Fin 8).val < 8 := by decide

theorem witness_reverse : 1 ≤ 1 ∧ 1 ≤ 8 ∧ 8 ≤ 8 ∧ 7 < 8 ∧ 8 - 1 < 8 := by decide

/-- Both sides of the domain of ROTR and ROTL. -/
theorem witness_rotateUnits : 31 ≤ 31 ∧ 32 ≤ 32 ∧ ¬ (32 ≤ 31) ∧ ¬ (32 ≤ 31) := by decide

theorem witness_pad : tiny.mlen < 2 ^ 61 ∧ (tiny.startHash eight).mlen < 2 ^ 61 := by decide

/-- The first length whose bits BITLEN does not hold. -/
theorem witness_pad_stops : ∃ s : State, 2 ^ 61 ≤ s.mlen :=
  ⟨{ tiny with msg := List.replicate (2 ^ 61) (0, 0) }, by rw [State.mlen, List.length_replicate]⟩

theorem witness_paddedMessage :
    (working .ldblk 0 0).msg.wf = true ∧ (working .ldblk 0 0).nblk = blockCount (working .ldblk 0 0).mlen := by
  decide

theorem witness_loadBlock :
    (working .ldblk 0 0).msg.wf = true ∧ (working .ldblk 0 0).bi < (working .ldblk 0 0).nblk := by decide

/-- For the loaded block, the 131 steps of a block, and the invariant's statements. -/
theorem witness_ldblk : (working .ldblk 0 0).Inv = true ∧ (working .ldblk 0 0).phase = .ldblk := by decide

theorem witness_ldw : (working .ldw 0 0).t.val ≤ 15 ∧ (working .ldw 0 15).t.val ≤ 15 := by decide

theorem witness_expand :
    (16 ≤ (working .expand 0 16).t.val ∧ (working .expand 0 16).t.val ≤ 63)
      ∧ (16 ≤ (working .expand 0 63).t.val ∧ (working .expand 0 63).t.val ≤ 63) := by decide

theorem witness_schedule : (0 < 64 ∧ 0 ≤ 15) ∧ (15 < 64 ∧ 15 ≤ 15) ∧ (16 < 64 ∧ 16 ≤ 16) ∧ (63 < 64 ∧ 16 ≤ 63) := by
  decide

theorem witness_round : (working .round 0 0).t.val ≤ 63 ∧ (working .round 0 63).t.val ≤ 63 := by decide

theorem witness_indicesOutside :
    15 < (working .ldw 0 16).t.val ∧ (working .expand 0 15).t.val < 16 ∧ 63 < (working .expand 0 64).t.val
      ∧ 63 < (working .round 0 64).t.val ∧ (working .ldblk 1 0).nblk ≤ (working .ldblk 1 0).bi ∧ 8 < 9 := by
  decide

theorem witness_digestDetermines : hexDigest initialHash = hexDigest initialHash := rfl

/-- HASH and UPDATE up to the last byte the store holds, and one byte more. -/
theorem witness_hashCommand :
    tiny.phase = .idle ∧ tiny.busy = false ∧ eight.length ≤ tiny.params.maxBytes.val
      ∧ tiny.params.maxBytes.val < (eight ++ [0x69]).length := by decide

theorem witness_updateCommand :
    hashed.phase = .idle ∧ hashed.busy = false ∧ hashed.msg.wf = true
      ∧ hashed.mlen + [0x64, 0x65, 0x66, 0x67, 0x68].length ≤ hashed.params.maxBytes.val
      ∧ hashed.params.maxBytes.val < hashed.mlen + [0x64, 0x65, 0x66, 0x67, 0x68, 0x69].length := by decide

theorem witness_runLeavesState :
    hashed.phase = .idle ∧ hashed.busy = false ∧ (abc ++ [0x64]).length ≤ hashed.params.maxBytes.val
      ∧ (Instr.update [0x64] = .hash (abc ++ [0x64])
        ∨ ∃ p, abc ++ [0x64] = hashed.msg.bytes ++ p ∧ Instr.update [0x64] = .update p) :=
  ⟨rfl, rfl, by decide, .inr ⟨[0x64], rfl, rfl⟩⟩

theorem witness_runLeavesState_hash :
    tiny.phase = .idle ∧ tiny.busy = false ∧ abc.length ≤ tiny.params.maxBytes.val
      ∧ (Instr.hash abc = .hash abc ∨ ∃ p, abc = tiny.msg.bytes ++ p ∧ Instr.hash abc = .update p) :=
  ⟨rfl, rfl, by decide, .inl rfl⟩

theorem witness_digestCommand :
    (hashed.phase = .idle ∧ hashed.busy = false ∧ hashed.dvalid = true)
      ∧ (tiny.phase = .idle ∧ tiny.busy = false ∧ tiny.dvalid = false) := by decide

theorem witness_statusCommand :
    ((hashed.phase = .idle ∨ hashed.phase = .halt) ∧ hashed.busy = false
        ∧ hashed.mlen ≤ hashed.params.maxBytes.val)
      ∧ ((halted.phase = .idle ∨ halted.phase = .halt) ∧ halted.busy = false
        ∧ halted.mlen ≤ halted.params.maxBytes.val) := by decide

/-- A frame of every kind accepted in IDLE: HASH and UPDATE within and beyond the store, DIGEST, STATUS
and an illegal one. -/
theorem witness_accept_idle :
    hashed.phase = .idle ∧ hashed.busy = false
      ∧ decodeFrame (0x01 :: eight) = .ok (.hash eight) ∧ eight.length ≤ hashed.params.maxBytes.val
      ∧ decodeFrame (0x02 :: eight) = .ok (.update eight)
      ∧ hashed.params.maxBytes.val < hashed.mlen + eight.length
      ∧ decodeFrame (0x02 :: []) = .ok (.update []) ∧ hashed.mlen + 0 ≤ hashed.params.maxBytes.val
      ∧ decodeFrame (0x01 :: (eight ++ abc)) = .ok (.hash (eight ++ abc))
      ∧ hashed.params.maxBytes.val < (eight ++ abc).length
      ∧ decodeFrame [0x03] = .ok .digest ∧ decodeFrame [0x04] = .ok .status
      ∧ decodeFrame [] = .illegal .emptyFrame
      ∧ ({ hashed with cmd := [[0x03]] } : State).cmd = [0x03] :: [] := by decide

theorem witness_accept_halt :
    let s : State := { halted with cmd := [0x01 :: abc] }
    s.busy = false ∧ s.cmd = (0x01 :: abc) :: [] ∧ s.phase = .halt := by decide

/-- Where ACCEPT is not enabled: while computing, and without a frame. -/
theorem witness_accept_waits :
    (working .pad 0 0).busy = true ∧ (working .pad 0 0).phase.computing = true ∧ tiny.cmd = [] := by decide

theorem witness_halted :
    halted.phase = .halt ∧ halted.busy = false
      ∧ ({ halted with cmd := [[0x04]] } : State).cmd = [0x04] :: []
      ∧ ({ halted with cmd := [[0x03]] } : State).cmd = [0x03] :: [] ∧ ([0x03] : Frame) ≠ [0x04] := by decide

theorem witness_halted_commands :
    (∃ p, Instr.hash abc = .hash p) ∧ (∃ p, Instr.update abc = .update p) ∧ Instr.digest = .digest :=
  ⟨⟨_, rfl⟩, ⟨_, rfl⟩, rfl⟩

theorem witness_oneResponse :
    let s : State := { hashed with cmd := [[0x03], 0x02 :: abc] }
    s.Inv = true ∧ s.phase.computing = false ∧ s.cmd = [0x03] :: [0x02 :: abc] := by decide

theorem witness_faultEntry :
    let s : State := { tiny with cmd := [[0x03]] }
    s.phase ≠ .halt ∧ ∃ t, step s = .next t ∧ t.phase = .halt := ⟨by decide, _, rfl, rfl⟩

theorem witness_haltStep : halted.phase = .halt ∧ ∃ t, step { halted with cmd := [[0x03]] } = .next t :=
  ⟨rfl, _, rfl⟩

theorem witness_computation : ∃ t, exec .pad (tiny.startHash abc) = .next t := ⟨_, rfl⟩

/-- The invariant holds at every phase of a computation, at the first and the last index of each. -/
theorem witness_invariant :
    tiny.Inv = true ∧ hashed.Inv = true ∧ halted.Inv = true
      ∧ (working .pad 0 0).Inv = true ∧ (working .seed 0 0).Inv = true ∧ (working .ldblk 0 0).Inv = true
      ∧ (working .ldw 0 0).Inv = true ∧ (working .ldw 0 15).Inv = true
      ∧ (working .expand 0 16).Inv = true ∧ (working .expand 0 63).Inv = true
      ∧ (working .initv 0 64).Inv = true ∧ (working .round 0 0).Inv = true
      ∧ (working .round 0 63).Inv = true ∧ (working .chain 0 64).Inv = true
      ∧ (working .serialize 1 64).Inv = true := by decide

/-- What the registers hold, at the phases where that says something. -/
theorem witness_tracks :
    hashed.Tracks ∧ (working .ldblk 0 0).Tracks ∧ (working .ldw 0 0).Tracks
      ∧ (working .expand 0 63).Tracks ∧ (working .round 0 63).Tracks ∧ (working .chain 0 64).Tracks
      ∧ (working .serialize 1 64).Tracks :=
  ⟨⟨fun _ => rfl, trivial⟩, ⟨nofun, rfl⟩, ⟨nofun, rfl, rfl, fun _ _ _ => rfl⟩,
    ⟨nofun, rfl, rfl, fun _ _ _ => rfl⟩, ⟨nofun, rfl, rfl, rfl, rfl⟩, ⟨nofun, rfl, rfl, rfl, rfl⟩,
    ⟨nofun, rfl⟩⟩

/-- Everything together, as the statements about a step assume it. -/
theorem witness_stepKeeps :
    (working .initv 0 64).Inv = true ∧ (working .initv 0 64).Tracks
      ∧ ∃ t, step (working .initv 0 64) = .next t :=
  ⟨by decide, ⟨nofun, rfl, rfl, rfl⟩, _, rfl⟩

/-- States that meet the invariant do step. -/
theorem witness_steps :
    (∃ t, step { hashed with cmd := [0x01 :: abc] } = .next t) ∧ (∃ t, step (working .seed 0 0) = .next t)
      ∧ (∃ t, step (working .initv 0 64) = .next t) ∧ (∃ t, step (working .chain 0 64) = .next t)
      ∧ (∃ t, step (working .serialize 1 64) = .next t) :=
  ⟨⟨_, rfl⟩, ⟨_, rfl⟩, ⟨_, rfl⟩, ⟨_, rfl⟩, ⟨_, rfl⟩⟩

theorem witness_sequencer :
    let s : State := { hashed with cmd := [0x01 :: eight] }
    let u : State := { hashed with cmd := [0x02 :: abc] }
    (s.Inv = true ∧ s.phase = .idle ∧ s.cmd = (0x01 :: eight) :: [] ∧ eight.length ≤ s.params.maxBytes.val)
      ∧ (u.Inv = true ∧ u.phase = .idle ∧ u.cmd = (0x02 :: abc) :: []
        ∧ u.mlen + abc.length ≤ u.params.maxBytes.val) := by decide

theorem witness_otherFrames_halt :
    let s : State := { halted with cmd := [0x01 :: abc] }
    s.busy = false ∧ s.phase.computing = false ∧ s.cmd = (0x01 :: abc) :: [] ∧ s.phase = .halt := by decide

theorem witness_otherFrames_idle :
    let s : State := { hashed with cmd := [[0x03]] }
    s.busy = false ∧ s.phase.computing = false ∧ s.cmd = [0x03] :: []
      ∧ (∀ p, decodeFrame [0x03] = .ok (.hash p) → s.params.maxBytes.val < p.length)
      ∧ (∀ p, decodeFrame [0x03] = .ok (.update p) → s.params.maxBytes.val < s.mlen + p.length) :=
  ⟨rfl, rfl, rfl, by simp [decodeFrame], by simp [decodeFrame]⟩

theorem witness_updateIsRehash :
    tiny.phase = .idle ∧ tiny.busy = false
      ∧ abc.length + [0x64, 0x65, 0x66, 0x67, 0x68].length ≤ tiny.params.maxBytes.val := by decide

/-- A little-endian and a big-endian engine that otherwise agree. -/
theorem witness_byteOrder :
    let s : State := { tiny with cmd := [0x01 :: abc] }
    let u : State := { tinyBE with cmd := [0x01 :: abc], lane := tiny.lane.set 0 7 }
    s.AgreesButByteOrder u ∧ s.le ≠ u.le ∧ (s.phase.computing = false → s.cmd.head? ≠ some [0x04])
      ∧ ∃ t, step s = .next t :=
  ⟨⟨rfl, rfl⟩, by decide, fun _ => by decide, _, rfl⟩

/-- Two engines that differ in what reset leaves unspecified. -/
theorem witness_unspecified :
    let s : State := { tiny with cmd := [[0x03]] }
    let u : State := { s with h := initialHash, digest := sha256hex abc, t := 9, bitlen := 5 }
    s.AgreesOnSpecified u ∧ ∃ t, commandStep s = .next t :=
  ⟨⟨rfl, rfl, rfl, rfl, rfl, rfl, rfl, rfl, rfl, nofun⟩, _, rfl⟩

theorem witness_messageStable :
    (working .chain 0 64).phase ≠ .idle ∧ ∃ t, step (working .chain 0 64) = .next t := ⟨by decide, _, rfl⟩

theorem witness_digestWritten :
    (working .initv 0 64).phase ≠ .serialize ∧ (∃ t, step (working .initv 0 64) = .next t)
      ∧ (∃ t, exec .digest hashed = .next t) ∧ ∃ t, exec .status hashed = .next t :=
  ⟨by decide, ⟨_, rfl⟩, ⟨_, rfl⟩, _, rfl⟩

theorem witness_statusRegister :
    hashed.Inv = true ∧ hashed.busy = false ∧ halted.Inv = true ∧ halted.busy = false
      ∧ halted.sr.toNat = 0xF00 + 16 * 2 + 4 * 1 + 2 * 0 := by decide

end Sys2Proof.Tests
end

section
/-! SUPPORT. Each micro-operation inverted, once: it answers a next state exactly when its guard holds, and
then this one. -/

namespace Sys2Proof.Machine

open Sys2Proof

variable {s t : State}

theorem execPad_eq_next_iff :
    execPad s = .next t ↔ s.mlen < 2 ^ 61 ∧
      t = { s with
        bitlen := BitVec.ofNat 64 (8 * s.mlen)
        nblk := blockCount s.mlen
        bi := 0
        phase := .seed } := by
  unfold execPad
  split <;> simp [*, eq_comm, -Nat.reducePow]

theorem execSeed_eq_next_iff :
    execSeed s = .next t ↔ t = { s with h := initialHash, phase := .ldblk } := by
  simp [execSeed, eq_comm]

theorem execLdblk_eq_next_iff :
    execLdblk s = .next t ↔ s.bi < s.nblk ∧ ∃ b, s.readBlock = some b ∧
      t = { s with blk := b, lane := s.laneAfterBlock, t := 0, phase := .ldw } := by
  unfold execLdblk
  split
  · cases hb : s.readBlock <;> simp [*, eq_comm]
  · simp [*]

theorem execLdw_eq_next_iff :
    execLdw s = .next t ↔ ∃ h : s.t.val ≤ 15,
      t = { s with
        w := s.w.set s.t.val (norm32 s.le (blockBytes s.blk s.t.val h) s.lane)
        lane := norm32Lane s.le (blockBytes s.blk s.t.val h) s.lane
        t := indexAfter s.t (by omega)
        phase := if s.t.val + 1 = 16 then .expand else .ldw } := by
  unfold execLdw
  split <;> simp [*, eq_comm]

theorem execExpand_eq_next_iff :
    execExpand s = .next t ↔ ∃ h : 16 ≤ s.t.val ∧ s.t.val ≤ 63,
      t = { s with
        w := s.w.set s.t.val
          (expandWord s.w[s.t.val - 16] s.w[s.t.val - 15] s.w[s.t.val - 7] s.w[s.t.val - 2])
        t := indexAfter s.t h.2
        phase := if s.t.val + 1 = 64 then .initv else .expand } := by
  unfold execExpand
  split <;> simp [*, eq_comm]

theorem execInitv_eq_next_iff :
    execInitv s = .next t ↔ t = { s with v := s.h, t := 0, phase := .round } := by
  simp [execInitv, eq_comm]

theorem execRound_eq_next_iff :
    execRound s = .next t ↔ ∃ h : s.t.val ≤ 63,
      t = { s with
        v := roundStep s.v roundConstants[s.t.val] s.w[s.t.val]
        t := indexAfter s.t h
        phase := if s.t.val + 1 = 64 then .chain else .round } := by
  unfold execRound
  split <;> simp [*, eq_comm]

theorem execChain_eq_next_iff :
    execChain s = .next t ↔
      t = { s with
        h := addWords s.h s.v
        bi := s.bi + 1
        phase := if s.bi + 1 = s.nblk then .serialize else .ldblk } := by
  simp [execChain, eq_comm]

/-- SERIALIZE changes the digest, the flags and RUNNING, and appends at most one response. -/
theorem execSerialize_eq_next_iff :
    execSerialize s = .next t ↔
      t = { s with
        digest := hexDigest s.h
        dvalid := true
        busy := false
        phase := .idle
        running := .none
        rsp := s.rsp ++ match s.running with
          | .none => []
          | .hash => [okStatus :: (hexDigest s.h).toList]
          | .update => [[okStatus]] } := by
  cases hr : s.running <;>
    simp [execSerialize, State.sendResult, State.send, State.digestResponse, hr, eq_comm]

end Sys2Proof.Machine
end

section
/-! PROOFS. What no step changes: the parameters and the byte order. -/

namespace Sys2Proof.Machine

open Sys2Proof

variable {s t : State}

/-- `t` has the parameters and the byte order of `s`. -/
def State.SameEngine (s t : State) : Prop := t.params = s.params ∧ t.le = s.le

theorem State.SameEngine.refl (s : State) : s.SameEngine s := ⟨rfl, rfl⟩

theorem State.dispatch_sameEngine (s : State) (d : Decoded Command) : s.SameEngine (s.dispatch d) := by
  obtain ⟨c, -, h⟩ | ⟨p, -, -, h⟩ | ⟨p, -, -, h⟩ | ⟨f, h⟩ := s.dispatch_cases d <;> rw [h]
  · exact ⟨s.raise_params c, s.raise_le c⟩
  · exact ⟨s.startHash_params p, s.startHash_le p⟩
  · exact ⟨s.startUpdate_params p, s.startUpdate_le p⟩
  · exact ⟨s.send_params f, s.send_le f⟩

theorem State.dispatchHalted_sameEngine (s : State) (d : Decoded Command) :
    s.SameEngine (s.dispatchHalted d) := by
  obtain ⟨f, h⟩ := s.dispatchHalted_cases d
  rw [h]
  exact ⟨s.send_params f, s.send_le f⟩

theorem execAccept_sameEngine (hp : s.phase = .idle) (h : execAccept s = .next t) :
    s.SameEngine t := by
  obtain hw | ⟨f, rest, -, -, hd⟩ := execAccept_idle hp
  · cases hw.symm.trans h
    exact .refl s
  · cases hd.symm.trans h
    exact State.dispatch_sameEngine { s with cmd := rest } (decodeFrame f)

theorem execAcceptHalt_sameEngine (h : execAcceptHalt s = .next t) : s.SameEngine t := by
  obtain hw | ⟨f, rest, -, -, -, hd⟩ := execAcceptHalt_cases s
  · cases hw.symm.trans h
    exact .refl s
  · cases hd.symm.trans h
    exact State.dispatchHalted_sameEngine { s with cmd := rest } (decodeFrame f)

theorem step_sameEngine (h : step s = .next t) : s.SameEngine t := by
  cases hp : s.phase with
  | idle => exact execAccept_sameEngine hp (step_idle hp ▸ h)
  | pad =>
    obtain ⟨-, rfl⟩ := execPad_eq_next_iff.mp (step_pad hp ▸ h)
    exact ⟨rfl, rfl⟩
  | seed =>
    obtain rfl := execSeed_eq_next_iff.mp (step_seed hp ▸ h)
    exact ⟨rfl, rfl⟩
  | ldblk =>
    obtain ⟨-, b, -, rfl⟩ := execLdblk_eq_next_iff.mp (step_ldblk hp ▸ h)
    exact ⟨rfl, rfl⟩
  | ldw =>
    obtain ⟨-, rfl⟩ := execLdw_eq_next_iff.mp (step_ldw hp ▸ h)
    exact ⟨rfl, rfl⟩
  | expand =>
    obtain ⟨-, rfl⟩ := execExpand_eq_next_iff.mp (step_expand hp ▸ h)
    exact ⟨rfl, rfl⟩
  | initv =>
    obtain rfl := execInitv_eq_next_iff.mp (step_initv hp ▸ h)
    exact ⟨rfl, rfl⟩
  | round =>
    obtain ⟨-, rfl⟩ := execRound_eq_next_iff.mp (step_round hp ▸ h)
    exact ⟨rfl, rfl⟩
  | chain =>
    obtain rfl := execChain_eq_next_iff.mp (step_chain hp ▸ h)
    exact ⟨rfl, rfl⟩
  | serialize =>
    obtain rfl := execSerialize_eq_next_iff.mp (step_serialize hp ▸ h)
    exact ⟨rfl, rfl⟩
  | halt => exact execAcceptHalt_sameEngine (step_halt hp ▸ h)

end Sys2Proof.Machine

namespace Sys2Proof.Proofs

open Sys2Proof Sys2Proof.Machine

/-- Settles O59, by the phase the step starts in. -/
theorem stepKeepsParametersAndByteOrder : Obligations.StepKeepsParametersAndByteOrder :=
  fun _ _ h => step_sameEngine h

end Sys2Proof.Proofs
end

section
/-! PROOFS. The host's three moves keep the invariant (R12). -/

namespace Sys2Proof.Machine

open Sys2Proof

/-- The invariant does not read CMD. -/
theorem State.hostOffer_inv (s : State) (f : Frame) : (s.hostOffer f).Inv = s.Inv := rfl

/-- The invariant does not read RSP. -/
theorem State.hostTake_inv (s : State) : s.hostTake.2.Inv = s.Inv := rfl

/-- The state after reset meets the invariant for all parameters: MSG is empty, the engine idle, and NBLK
and BI are both 0 (log entry 1). -/
theorem State.resetWith_inv (p : Params) : (State.resetWith p).Inv = true :=
  (State.inv_iff _).mpr
    ⟨Memory.wf_nil, Nat.zero_le _, rfl, rfl, rfl, rfl, rfl, le_refl 0, Nat.zero_le _, rfl, rfl⟩

end Sys2Proof.Machine

namespace Sys2Proof.Proofs

open Sys2Proof Sys2Proof.Machine

/-- Settles O49: the two port moves leave all the invariant reads as it is, and reset establishes it. -/
theorem hostMovesKeepInvariant : Obligations.HostMovesKeepInvariant :=
  fun s f hs =>
    ⟨(s.hostOffer_inv f).trans hs, s.hostTake_inv.trans hs, State.resetWith_inv s.params⟩

end Sys2Proof.Proofs
end

section
/-! PROOFS. The tables of R24 and R25 as root fractions: the first 64 primes by trial division, and the
root of each prime, its whole part and the table's word after it, bounded by powers. -/

namespace Sys2Proof.Machine

open Sys2Proof

/-! ### The first primes -/

/-- The first 64 primes, in order (R24). -/
def firstPrimes : Vector Nat 64 := #v[
  2, 3, 5, 7, 11, 13, 17, 19, 23, 29, 31, 37, 41, 43, 47, 53,
  59, 61, 67, 71, 73, 79, 83, 89, 97, 101, 103, 107, 109, 113, 127, 131,
  137, 139, 149, 151, 157, 163, 167, 173, 179, 181, 191, 193, 197, 199, 211, 223,
  227, 229, 233, 239, 241, 251, 257, 263, 269, 271, 277, 281, 283, 293, 307, 311]

/-- Trial division by 2 .. 18, enough below 19^2. -/
def trialPrime (n : Nat) : Bool :=
  decide (2 ≤ n) && (List.range 19).all fun d => decide (d < 2) || n % d != 0 || n == d

theorem trialPrime_iff {n : Nat} (hn : n < 19 ^ 2) : trialPrime n = true ↔ n.Prime := by
  have htrial : trialPrime n = true ↔ 2 ≤ n ∧ ∀ d < 19, 2 ≤ d → d ∣ n → n = d := by
    simp [trialPrime, Nat.dvd_iff_mod_eq_zero, or_iff_not_imp_left, Nat.succ_le_iff]
  rw [htrial]
  constructor
  · rintro ⟨h2, hdiv⟩
    by_contra hcomp
    have hsq : n.minFac ^ 2 ≤ n := Nat.minFac_sq_le_self (by omega) hcomp
    have hlt : n.minFac < 19 := lt_of_pow_lt_pow_left₀ 2 (by omega) (hsq.trans_lt hn)
    have hmin : n.minFac.Prime := Nat.minFac_prime (by omega)
    have heq : n = n.minFac := hdiv n.minFac hlt hmin.two_le n.minFac_dvd
    exact hcomp (heq ▸ hmin)
  · exact fun hp => ⟨hp.two_le, fun d _ hd hdvd => ((Nat.dvd_prime hp).mp hdvd).elim (by omega) Eq.symm⟩

/-- The entry of index t of the numbers below N that satisfy p is the t-th of all that do. -/
theorem nth_of_filter_range {p : Nat → Prop} [DecidablePred p] {N t q : Nat}
    (h : ((List.range N).filter p)[t]? = some q) : Nat.nth p t = q := by
  induction N with
  | zero => simp at h
  | succ N ih =>
    rw [List.range_succ, List.filter_append] at h
    obtain hlt | hge := Nat.lt_or_ge t ((List.range N).filter p).length
    · rw [List.getElem?_append_left hlt] at h
      exact ih h
    · rw [List.getElem?_append_right hge] at h
      obtain ⟨hidx, hq⟩ := List.getElem?_eq_some_iff.mp h
      have hmem : q ∈ [N].filter p := hq ▸ List.getElem_mem hidx
      obtain ⟨rfl, hp⟩ : q = N ∧ p q := by simpa using hmem
      have hone : ([q].filter p).length ≤ 1 := List.length_filter_le ..
      have ht : t = Nat.count p q := by
        rw [Nat.count, List.countP_eq_length_filter]
        omega
      rw [ht]
      exact Nat.nth_count hp

theorem filter_trialPrime : (List.range 312).filter trialPrime = firstPrimes.toList := by
  decide

theorem nth_prime_eq_firstPrimes (t : Fin 64) : Nat.nth Nat.Prime t.val = firstPrimes[t] := by
  have hfilter : (List.range 312).filter Nat.Prime = firstPrimes.toList := by
    rw [← filter_trialPrime]
    refine List.filter_congr fun n hn => ?_
    have hlt : n < 19 ^ 2 := (List.mem_range.mp hn).trans (by decide)
    exact Bool.eq_iff_iff.mpr (decide_eq_true_iff.trans (trialPrime_iff hlt).symm)
  refine nth_of_filter_range (N := 312) ?_
  rw [hfilter]
  simp

/-! ### The roots -/

/-- The largest q with q^k ≤ n, for the roots below 18. -/
def rootFloor (k n : Nat) : Nat := Nat.findGreatest (fun q => q ^ k ≤ n) 17

/-- The whole part of the k-th root of n, and after it the 32 bits `x` of its fraction. -/
def rootWith (k n : Nat) (x : Word) : Nat := rootFloor k n * 2 ^ 32 + x.toNat

theorem rootWith_mod (k n : Nat) (x : Word) : x.toNat = rootWith k n x % 2 ^ 32 := by
  have := x.isLt
  unfold rootWith
  omega

theorem roundConstants_cubeRoot (t : Fin 64) :
    rootWith 3 firstPrimes[t] roundConstants[t] ^ 3 ≤ firstPrimes[t] * 2 ^ 96
      ∧ firstPrimes[t] * 2 ^ 96 < (rootWith 3 firstPrimes[t] roundConstants[t] + 1) ^ 3 := by
  revert t
  decide

theorem initialHash_squareRoot (i : Fin 8) :
    rootWith 2 firstPrimes[i] initialHash[i] ^ 2 ≤ firstPrimes[i] * 2 ^ 64
      ∧ firstPrimes[i] * 2 ^ 64 < (rootWith 2 firstPrimes[i] initialHash[i] + 1) ^ 2 := by
  revert i
  decide

end Sys2Proof.Machine

namespace Sys2Proof.Proofs

open Sys2Proof Sys2Proof.Machine

/-- Settles O11: each word is the fraction of the root whose whole part `rootFloor` gives. -/
theorem constantTablesAreRootFractions : Obligations.ConstantTablesAreRootFractions := by
  refine ⟨fun t => ?_, fun i => ?_⟩
  · obtain ⟨hle, hlt⟩ := roundConstants_cubeRoot t
    rw [nth_prime_eq_firstPrimes t]
    exact ⟨_, hle, hlt, rootWith_mod ..⟩
  · obtain ⟨hle, hlt⟩ := initialHash_squareRoot i
    have hp : Nat.nth Nat.Prime i.val = firstPrimes[i] :=
      nth_prime_eq_firstPrimes ⟨i.val, by omega⟩
    rw [hp]
    exact ⟨_, hle, hlt, rootWith_mod ..⟩

end Sys2Proof.Proofs
end

section
/-! PROOFS. What a host sees before and beside a computation: the values reset gives, the fields of SR,
and the frames that wait on CMD. -/

namespace Sys2Proof.Machine

open Sys2Proof

variable {s : State}

/-! ### Reset -/

/-- After reset no digest is claimed and no phase is in progress. -/
theorem State.resetWith_tracks (p : Params) : (State.resetWith p).Tracks := ⟨nofun, trivial⟩

theorem State.resetWith_sr (p : Params) :
    (State.resetWith p).sr = if p.platformLE then 0x00000004 else 0x00000000 := by
  cases h : p.platformLE <;> simp [State.sr, State.resetWith, FaultCode.code, Phase.code, h]

/-! ### The status register -/

theorem getLsbD_of_toNat_div {x : Word} {b : Bool} {i : Nat} (h : x.toNat / 2 ^ i % 2 = b.toNat) :
    x.getLsbD i = b := by
  rw [BitVec.getLsbD, Nat.testBit_eq_decide_div_mod_eq, h]
  cases b <;> rfl

theorem extractLsb'_of_toNat_div {x : Word} {n i : Nat} {y : BitVec n}
    (h : x.toNat / 2 ^ i % 2 ^ n = y.toNat) : x.extractLsb' i n = y := by
  apply BitVec.eq_of_toNat_eq
  rw [BitVec.extractLsb'_toNat, Nat.shiftRight_eq_div_pow, h]

/-- SR as a number: the sum of R33 fits the register's 32 bits. -/
theorem State.sr_toNat (s : State) :
    s.sr.toNat = s.busy.toNat + 2 * s.dvalid.toNat + 4 * s.le.toNat
      + 16 * s.fault.code.toNat + 256 * s.phase.code.toNat := by
  have hf := s.fault.code.isLt
  have hp := s.phase.code.isLt
  have hb := s.busy.toNat_le
  have hd := s.dvalid.toNat_le
  have hl := s.le.toNat_le
  rw [State.sr, BitVec.toNat_ofNat]
  omega

/-- Outside PAD to SERIALIZE the engine is in IDLE or in HALT. -/
theorem Phase.computing_eq_false_iff (p : Phase) : p.computing = false ↔ p = .idle ∨ p = .halt := by
  cases p <;> simp [Phase.computing]

/-- The invariant's clause on FAULT (R33): none is recorded exactly outside HALT. -/
theorem State.fault_eq_none_iff (hs : s.Inv = true) : s.fault = .none ↔ s.phase ≠ .halt := by
  obtain ⟨-, -, -, -, -, hfault, -⟩ := s.inv_iff.mp hs
  have hiff : s.fault ≠ .none ↔ s.phase = .halt := by simpa using Bool.eq_iff_iff.mp hfault
  rw [ne_eq, ← hiff, not_not]

/-- SR in IDLE: BUSY, FAULT and PHASE are 0. -/
theorem State.sr_toNat_idle (hp : s.phase = .idle) (hb : s.busy = false) (hf : s.fault = .none) :
    s.sr.toNat = 4 * s.le.toNat + 2 * s.dvalid.toNat := by
  simp [State.sr_toNat, hp, hb, hf, FaultCode.code, Phase.code, Nat.add_comm]

/-- SR in HALT: PHASE is 15. -/
theorem State.sr_toNat_halt (hp : s.phase = .halt) (hb : s.busy = false) :
    s.sr.toNat = 0xF00 + 16 * s.fault.code.toNat + 4 * s.le.toNat + 2 * s.dvalid.toNat := by
  have hcode : Phase.halt.code.toNat = 15 := rfl
  rw [State.sr_toNat, hp, hb, hcode, Bool.toNat_false]
  omega

/-- A recorded fault has one of the codes 1 to 3 (R35). -/
theorem FaultCode.code_bounds {c : FaultCode} (h : c ≠ .none) : 1 ≤ c.code.toNat ∧ c.code.toNat ≤ 3 := by
  cases c
  case none => exact absurd rfl h
  all_goals decide

/-! ### ACCEPT where it is not enabled, and commands while the engine computes -/

theorem execAcceptHalt_of_not_halt (h : s.phase ≠ .halt) : execAcceptHalt s = .next s := by
  obtain hw | ⟨_, _, _, _, hp, _⟩ := execAcceptHalt_cases s
  · exact hw
  · exact absurd hp h

theorem execAcceptHalt_of_noFrame (h : s.cmd = []) : execAcceptHalt s = .next s := by
  obtain hw | ⟨_, _, hc, _⟩ := execAcceptHalt_cases s
  · exact hw
  · simp [h] at hc

/-- ACCEPT outside IDLE is its halted form. -/
theorem execAccept_of_not_idle (h : s.phase ≠ .idle) : execAccept s = execAcceptHalt s := by
  unfold execAccept
  split
  case h_1 hc => exact (execAcceptHalt_of_noFrame hc).symm
  case h_2 => simp [h]

theorem execAccept_of_noFrame (h : s.cmd = []) : execAccept s = .next s := by
  simp [execAccept, h]

theorem State.accepting_of_computing (h : s.phase.computing = true) : s.accepting = false := by
  simp [State.accepting, h]

end Sys2Proof.Machine

namespace Sys2Proof.Proofs

open Sys2Proof Sys2Proof.Machine

/-- Settles O46: each value is the one `State.resetWith` writes, and SR is the view of them. -/
theorem resetValues : Obligations.ResetValues :=
  ⟨fun s => ⟨rfl, rfl, rfl, rfl, rfl, State.resetWith_sr s.params, rfl, rfl, rfl, rfl, rfl⟩, rfl⟩

/-- Settles O47, for the parameters of `Config.params` as for any others. -/
theorem invariantHoldsAtReset : Obligations.InvariantHoldsAtReset :=
  ⟨fun p => ⟨State.resetWith_inv p, State.resetWith_tracks p⟩,
    State.resetWith_inv Config.params, State.resetWith_tracks Config.params⟩

/-- Settles O60: the fields by the digits of the sum of R33, the observable values by the two phases in
which BUSY = 0. -/
theorem statusRegisterFields : Obligations.StatusRegisterFields := by
  refine ⟨fun s => ?_, fun s hs hb => ?_⟩
  · have hsr := s.sr_toNat
    have hf := s.fault.code.isLt
    have hp := s.phase.code.isLt
    have hb := s.busy.toNat_le
    have hd := s.dvalid.toNat_le
    have hl := s.le.toNat_le
    exact ⟨getLsbD_of_toNat_div (by omega), getLsbD_of_toNat_div (by omega),
      getLsbD_of_toNat_div (by omega), getLsbD_of_toNat_div (b := false) (by rw [Bool.toNat_false]; omega),
      extractLsb'_of_toNat_div (by omega), extractLsb'_of_toNat_div (by omega),
      extractLsb'_of_toNat_div (y := 0#20) (by rw [BitVec.toNat_zero]; omega)⟩
  · obtain ⟨-, -, -, hbusy, -⟩ := s.inv_iff.mp hs
    obtain hp | hp := s.phase.computing_eq_false_iff.mp (hbusy.symm.trans hb)
    · have hnone : s.fault = .none := (State.fault_eq_none_iff hs).mpr (by simp [hp])
      left
      rw [State.sr_toNat_idle hp hb hnone]
      cases s.le <;> cases s.dvalid <;> decide
    · have hsome : s.fault ≠ .none := fun hn => (State.fault_eq_none_iff hs).mp hn hp
      obtain ⟨hlo, hhi⟩ := FaultCode.code_bounds hsome
      exact .inr ⟨_, hlo, hhi, State.sr_toNat_halt hp hb⟩

/-- Settles O41: ACCEPT has nothing to dispatch in either case, and a command that is not accepted is
held. -/
theorem framesWaitOnCommandPort : Obligations.FramesWaitOnCommandPort := by
  refine ⟨fun s hc => ⟨execAccept_of_noFrame hc, execAcceptHalt_of_noFrame hc⟩, fun s hc => ?_⟩
  have hidle : s.phase ≠ .idle := by rintro h; simp [h, Phase.computing] at hc
  have hhalt : s.phase ≠ .halt := by rintro h; simp [h, Phase.computing] at hc
  have hacc := State.accepting_of_computing hc
  have hwait := execAcceptHalt_of_not_halt hhalt
  refine ⟨(execAccept_of_not_idle hidle).trans hwait, hwait, fun p => ?_, fun p => ?_, ?_, ?_⟩
  · exact congrArg _ (State.command_waits _ _ hacc)
  · exact congrArg _ (State.command_waits _ _ hacc)
  · exact congrArg _ (State.command_waits _ _ hacc)
  · exact congrArg _ (if_neg (by simp [hacc]))

end Sys2Proof.Proofs
end

section
/-! PROOFS. Every step keeps the invariant of the engine (R206): what ACCEPT does in IDLE, the steps that
work on the blocks of one message, and PAD and SERIALIZE at their two ends. -/

namespace Sys2Proof.Machine

open Sys2Proof

variable {s t : State}

/-! ### Dispatch -/

/-- The invariant reads neither port. -/
theorem State.send_inv (s : State) (f : Frame) : (s.send f).Inv = s.Inv := rfl

theorem State.dropFrame_inv (s : State) (rest : List Frame) : { s with cmd := rest }.Inv = s.Inv := rfl

/-- A fault raised in IDLE is recorded with the entry into HALT. -/
theorem State.raise_inv {c : FaultCode} (hs : s.Inv = true) (hp : s.phase = .idle) (hc : c ≠ .none) :
    (s.raise c).Inv = true := by
  obtain ⟨hwf, hlen, hle, hbusy, hrun, -, -, hbi, hnb, -, -⟩ := s.inv_iff.mp hs
  rw [hp] at hbusy hrun
  exact (State.inv_iff _).mpr ⟨hwf, hlen, hle, hbusy, hrun, by simpa using hc, by simp [Phase.computing],
    hbi, hnb, rfl, rfl⟩

theorem State.startHash_inv {p : List Byte} (hs : s.Inv = true) (hp : s.phase = .idle)
    (hmax : p.length ≤ s.params.maxBytes.val) : (s.startHash p).Inv = true := by
  obtain ⟨-, -, hle, -, -, hfault, -, hbi, hnb, -, -⟩ := s.inv_iff.mp hs
  rw [hp] at hfault
  exact (State.inv_iff _).mpr ⟨Memory.assign_wf p, by simpa [State.mlen] using hmax, hle, rfl, rfl,
    hfault, rfl, hbi, hnb, rfl, rfl⟩

theorem State.startUpdate_inv {p : List Byte} (hs : s.Inv = true) (hp : s.phase = .idle)
    (hmax : s.mlen + p.length ≤ s.params.maxBytes.val) : (s.startUpdate p).Inv = true := by
  obtain ⟨hwf, -, hle, -, -, hfault, -, hbi, hnb, -, -⟩ := s.inv_iff.mp hs
  rw [hp] at hfault
  exact (State.inv_iff _).mpr ⟨Memory.append_wf s.msg p hwf, by simpa [State.mlen] using hmax, hle, rfl,
    rfl, hfault, rfl, hbi, hnb, rfl, rfl⟩

theorem State.dispatch_inv (d : Decoded Command) (hs : s.Inv = true) (hp : s.phase = .idle) :
    (s.dispatch d).Inv = true := by
  obtain ⟨c, hc, h⟩ | ⟨p, -, hmax, h⟩ | ⟨p, -, hmax, h⟩ | ⟨f, h⟩ := s.dispatch_cases d <;> rw [h]
  · exact State.raise_inv hs hp hc
  · exact State.startHash_inv hs hp hmax
  · exact State.startUpdate_inv hs hp hmax
  · exact (s.send_inv f).trans hs

theorem execAccept_inv (hs : s.Inv = true) (hp : s.phase = .idle) (h : execAccept s = .next t) :
    t.Inv = true := by
  obtain hw | ⟨f, rest, -, -, hd⟩ := execAccept_idle hp
  · cases hw.symm.trans h
    exact hs
  · cases hd.symm.trans h
    exact State.dispatch_inv _ ((s.dropFrame_inv rest).trans hs) hp

theorem execAcceptHalt_inv (hs : s.Inv = true) (h : execAcceptHalt s = .next t) : t.Inv = true := by
  obtain hw | ⟨f, rest, -, -, -, hd⟩ := execAcceptHalt_cases s
  · cases hw.symm.trans h
    exact hs
  · cases hd.symm.trans h
    obtain ⟨r, hr⟩ := State.dispatchHalted_cases { s with cmd := rest } (decodeFrame f)
    rw [hr, State.send_inv, s.dropFrame_inv rest]
    exact hs

/-! ### Work on the blocks of one message -/

/-- The phases SEED to SERIALIZE, in which BITLEN and NBLK are those of the message (R120). -/
def Phase.inBlocks (p : Phase) : Bool := p.computing && p != .pad

theorem Phase.computing_of_inBlocks {p : Phase} (h : p.inBlocks = true) : p.computing = true :=
  (Bool.and_eq_true_iff.mp h).1

theorem State.lengthsOk_iff (s : State) :
    s.lengthsOk = true ↔
      (s.phase.inBlocks = true → s.bitlen.toNat = 8 * s.mlen ∧ s.nblk = blockCount s.mlen) := by
  rw [State.lengthsOk, ← Phase.inBlocks]
  cases s.phase.inBlocks <;> simp

/-- From `s` to `t` only the position and the registers a block works in may change. -/
def State.BlockWork (s t : State) : Prop :=
  t = { s with
    h := t.h, v := t.v, w := t.w, blk := t.blk, lane := t.lane, t := t.t, bi := t.bi, phase := t.phase }

/-! The bounds of the position, phase by phase (R28, R206). -/

theorem State.positionOk_seed (hp : s.phase = .seed) :
    s.positionOk = true ↔ s.bi = 0 ∧ 0 < s.nblk := by
  simp [State.positionOk, hp]

theorem State.positionOk_ldblk (hp : s.phase = .ldblk) : s.positionOk = true ↔ s.bi < s.nblk := by
  simp [State.positionOk, hp]

theorem State.positionOk_ldw (hp : s.phase = .ldw) :
    s.positionOk = true ↔ s.bi < s.nblk ∧ s.t.val ≤ 15 := by
  simp [State.positionOk, hp]

theorem State.positionOk_expand (hp : s.phase = .expand) :
    s.positionOk = true ↔ s.bi < s.nblk ∧ 16 ≤ s.t.val ∧ s.t.val ≤ 63 := by
  simp [State.positionOk, hp, and_assoc]

theorem State.positionOk_initv (hp : s.phase = .initv) :
    s.positionOk = true ↔ s.bi < s.nblk ∧ s.t.val = 64 := by
  simp [State.positionOk, hp]

theorem State.positionOk_round (hp : s.phase = .round) :
    s.positionOk = true ↔ s.bi < s.nblk ∧ s.t.val ≤ 63 := by
  simp [State.positionOk, hp]

theorem State.positionOk_chain (hp : s.phase = .chain) :
    s.positionOk = true ↔ s.bi < s.nblk ∧ s.t.val = 64 := by
  simp [State.positionOk, hp]

theorem State.positionOk_serialize (hp : s.phase = .serialize) :
    s.positionOk = true ↔ s.bi = s.nblk ∧ s.t.val = 64 := by
  simp [State.positionOk, hp]

/-- The bounds of a phase from SEED to SERIALIZE include that of BI. -/
theorem State.bi_le_of_positionOk (hp : s.phase.inBlocks = true) (h : s.positionOk = true) :
    s.bi ≤ s.nblk := by
  cases hs : s.phase <;> simp_all [State.positionOk, Phase.inBlocks, Phase.computing] <;> omega

/-- Block work inside SEED to SERIALIZE keeps the invariant once the new position is in bounds. -/
theorem State.BlockWork.inv (hw : s.BlockWork t) (hs : s.Inv = true) (hps : s.phase.inBlocks = true)
    (hpt : t.phase.inBlocks = true) (hpos : t.positionOk = true) : t.Inv = true := by
  obtain ⟨hwf, hlen, hle, hbusy, hrun, -, hdv, -, hnb, -, hlens⟩ := s.inv_iff.mp hs
  have hsame : s.phase.computing = t.phase.computing :=
    (Phase.computing_of_inBlocks hps).trans (Phase.computing_of_inBlocks hpt).symm
  have hnone : s.fault = .none :=
    (State.fault_eq_none_iff hs).mpr (by rintro h; simp [h, Phase.inBlocks, Phase.computing] at hps)
  have hhalt : t.phase ≠ .halt := by rintro h; simp [h, Phase.inBlocks, Phase.computing] at hpt
  have hbi := State.bi_le_of_positionOk hpt hpos
  have hlengths := s.lengthsOk_iff.mp hlens hps
  rw [hsame] at hbusy hrun hdv
  rw [hw] at hbusy hrun hdv hbi hpos hhalt ⊢
  exact (State.inv_iff _).mpr ⟨hwf, hlen, hle, hbusy, hrun, by simp [hnone, hhalt], hdv, hbi, hnb, hpos,
    (State.lengthsOk_iff _).mpr fun _ => hlengths⟩

/-! ### The two ends of a computation -/

/-- PAD computes the lengths of a message that fits the store. -/
theorem execPad_inv (hs : s.Inv = true) (hp : s.phase = .pad) (h : execPad s = .next t) :
    t.Inv = true := by
  obtain ⟨hlt, rfl⟩ := execPad_eq_next_iff.mp h
  obtain ⟨hwf, hlen, hle, hbusy, hrun, hfault, hdv, -, -, -, -⟩ := s.inv_iff.mp hs
  rw [hp] at hbusy hrun hfault hdv
  have hbits : (BitVec.ofNat 64 (8 * s.mlen)).toNat = 8 * s.mlen := by
    rw [BitVec.toNat_ofNat]
    omega
  exact (State.inv_iff _).mpr ⟨hwf, hlen, hle, hbusy, hrun, hfault, hdv, Nat.zero_le _,
    blockCount_mono hlen, by simp [State.positionOk, blockCount_pos],
    (State.lengthsOk_iff _).mpr fun _ => ⟨hbits, rfl⟩⟩

theorem execSerialize_inv (hs : s.Inv = true) (hp : s.phase = .serialize)
    (h : execSerialize s = .next t) : t.Inv = true := by
  obtain rfl := execSerialize_eq_next_iff.mp h
  obtain ⟨hwf, hlen, hle, -, -, hfault, -, hbi, hnb, -, -⟩ := s.inv_iff.mp hs
  rw [hp] at hfault
  exact (State.inv_iff _).mpr ⟨hwf, hlen, hle, rfl, rfl, hfault, by simp [Phase.computing], hbi, hnb, rfl, rfl⟩

theorem step_inv (hs : s.Inv = true) (h : step s = .next t) : t.Inv = true := by
  obtain ⟨-, -, -, -, -, -, -, -, -, hpos, -⟩ := s.inv_iff.mp hs
  cases hp : s.phase with
  | idle => exact execAccept_inv hs hp (step_idle hp ▸ h)
  | pad => exact execPad_inv hs hp (step_pad hp ▸ h)
  | seed =>
    obtain rfl := execSeed_eq_next_iff.mp (step_seed hp ▸ h)
    obtain ⟨hbi, hnb⟩ := (State.positionOk_seed hp).mp hpos
    exact State.BlockWork.inv rfl hs (by rw [hp]; rfl) rfl
      ((State.positionOk_ldblk rfl).mpr (hbi.trans_lt hnb))
  | ldblk =>
    obtain ⟨hbi, b, -, rfl⟩ := execLdblk_eq_next_iff.mp (step_ldblk hp ▸ h)
    exact State.BlockWork.inv rfl hs (by rw [hp]; rfl) rfl
      ((State.positionOk_ldw rfl).mpr ⟨hbi, Nat.zero_le 15⟩)
  | ldw =>
    obtain ⟨ht, rfl⟩ := execLdw_eq_next_iff.mp (step_ldw hp ▸ h)
    obtain ⟨hbi, -⟩ := (State.positionOk_ldw hp).mp hpos
    by_cases hlast : s.t.val + 1 = 16
    · simp only [if_pos hlast]
      exact State.BlockWork.inv rfl hs (by rw [hp]; rfl) rfl
        ((State.positionOk_expand rfl).mpr ⟨hbi, by simp only [indexAfter_val]; omega⟩)
    · simp only [if_neg hlast]
      exact State.BlockWork.inv rfl hs (by rw [hp]; rfl) rfl
        ((State.positionOk_ldw rfl).mpr ⟨hbi, by simp only [indexAfter_val]; omega⟩)
  | expand =>
    obtain ⟨ht, rfl⟩ := execExpand_eq_next_iff.mp (step_expand hp ▸ h)
    obtain ⟨hbi, -⟩ := (State.positionOk_expand hp).mp hpos
    by_cases hlast : s.t.val + 1 = 64
    · simp only [if_pos hlast]
      exact State.BlockWork.inv rfl hs (by rw [hp]; rfl) rfl
        ((State.positionOk_initv rfl).mpr ⟨hbi, hlast⟩)
    · simp only [if_neg hlast]
      exact State.BlockWork.inv rfl hs (by rw [hp]; rfl) rfl
        ((State.positionOk_expand rfl).mpr ⟨hbi, by simp only [indexAfter_val]; omega⟩)
  | initv =>
    obtain rfl := execInitv_eq_next_iff.mp (step_initv hp ▸ h)
    obtain ⟨hbi, -⟩ := (State.positionOk_initv hp).mp hpos
    exact State.BlockWork.inv rfl hs (by rw [hp]; rfl) rfl
      ((State.positionOk_round rfl).mpr ⟨hbi, Nat.zero_le 63⟩)
  | round =>
    obtain ⟨ht, rfl⟩ := execRound_eq_next_iff.mp (step_round hp ▸ h)
    obtain ⟨hbi, -⟩ := (State.positionOk_round hp).mp hpos
    by_cases hlast : s.t.val + 1 = 64
    · simp only [if_pos hlast]
      exact State.BlockWork.inv rfl hs (by rw [hp]; rfl) rfl
        ((State.positionOk_chain rfl).mpr ⟨hbi, hlast⟩)
    · simp only [if_neg hlast]
      exact State.BlockWork.inv rfl hs (by rw [hp]; rfl) rfl
        ((State.positionOk_round rfl).mpr ⟨hbi, by simp only [indexAfter_val]; omega⟩)
  | chain =>
    obtain rfl := execChain_eq_next_iff.mp (step_chain hp ▸ h)
    obtain ⟨hbi, ht⟩ := (State.positionOk_chain hp).mp hpos
    by_cases hlast : s.bi + 1 = s.nblk
    · simp only [if_pos hlast]
      exact State.BlockWork.inv rfl hs (by rw [hp]; rfl) rfl
        ((State.positionOk_serialize rfl).mpr ⟨hlast, ht⟩)
    · simp only [if_neg hlast]
      exact State.BlockWork.inv rfl hs (by rw [hp]; rfl) rfl
        ((State.positionOk_ldblk rfl).mpr (by dsimp only; omega))
  | serialize => exact execSerialize_inv hs hp (step_serialize hp ▸ h)
  | halt => exact execAcceptHalt_inv hs (step_halt hp ▸ h)

end Sys2Proof.Machine

namespace Sys2Proof.Proofs

open Sys2Proof Sys2Proof.Machine

/-- Settles O48, by the phase the step starts in. -/
theorem stepKeepsInvariant : Obligations.StepKeepsInvariant :=
  fun _ _ hs h => step_inv hs h

end Sys2Proof.Proofs
end

section
/-! PROOFS. What the micro-operations load: the trailer bytes of ENC64, the words of NORM32, the bytes and
blocks of the padded message, and the words of the schedule. -/

namespace Sys2Proof.Machine

open Sys2Proof

variable {s : State}

/-! ### The normalizer (R107, R108) -/

/-- ENC64 leaves the bytes of the integer in LANE, most significant first, on either platform. -/
theorem enc64_getElem (le : Bool) (x : BitVec 64) (lane : Vector Byte 8) (k : Nat) (hk : k < 8) :
    (enc64 le x lane)[k] = BitVec.ofNat 8 (x.toNat / 2 ^ (8 * (7 - k))) := by
  cases le
  · simp [enc64, nativeWrite]
  · simp [enc64, reverseLane, nativeWrite]

theorem toList_tabulate {α : Type} {n : Nat} (f : Fin n → α) : (tabulate f).toList = List.ofFn f := by
  simp [tabulate, Vector.toList]

/-- NORM32 reads four bytes as the big-endian word, on either platform and whatever LANE held. -/
theorem norm32_eq_append (le : Bool) (b : Vector Byte 4) (lane : Vector Byte 8) :
    norm32 le b lane = b[0] ++ b[1] ++ b[2] ++ b[3] := by
  have hread : nativeRead le 4 (norm32Lane le b lane) = bigEndianValue [b[0], b[1], b[2], b[3]] := by
    cases le <;>
      simp [nativeRead, norm32Lane, reverseLane, stage4, toList_tabulate, List.ofFn_succ]
  rw [norm32, hread]
  apply BitVec.eq_of_toNat_eq
  have h0 := b[0].isLt
  have h1 := b[1].isLt
  have h2 := b[2].isLt
  have h3 := b[3].isLt
  rw [BitVec.toNat_append, BitVec.toNat_append, BitVec.toNat_append,
    ← Nat.shiftLeft_add_eq_or_of_lt h3, ← Nat.shiftLeft_add_eq_or_of_lt h2,
    ← Nat.shiftLeft_add_eq_or_of_lt h1]
  simp only [bigEndianValue, List.foldl, Nat.shiftLeft_eq, BitVec.toNat_ofNat]
  omega

theorem norm32_blockBytes (le : Bool) (blk : Vector Byte 64) (t : Nat) (h : t ≤ 15) (lane : Vector Byte 8) :
    norm32 le (blockBytes blk t h) lane = blockWord blk t h := by
  simp [norm32_eq_append, blockBytes, blockWord]

/-! ### The padded message (R121, R124) -/

/-- Once the lengths are those of the message, PBYTE is the padded message's byte. -/
theorem State.pbyte_eq_paddedByte (hw : s.msg.wf = true) (hbits : s.bitlen.toNat = 8 * s.mlen)
    (hnb : s.nblk = blockCount s.mlen) {i : Nat} (hi : i < 64 * s.nblk) :
    s.pbyte i = some (paddedByte s.msg.bytes i) := by
  have hlen : s.msg.bytes.length = s.mlen := s.msg.bytes_length
  by_cases hlt : i < s.mlen
  · rw [State.pbyte, if_pos hlt, paddedByte, dif_pos (hlen ▸ hlt), Memory.read_of_wf _ hw,
      List.getElem?_eq_getElem]
  by_cases heq : i = s.mlen
  · rw [State.pbyte, if_neg hlt, if_pos heq, paddedByte, dif_neg (hlen ▸ hlt), if_pos (hlen ▸ heq)]
  by_cases hfill : i < 64 * s.nblk - 8
  · rw [State.pbyte, if_neg hlt, if_neg heq, if_pos hfill, paddedByte, dif_neg (hlen ▸ hlt),
      if_neg (hlen ▸ heq), hlen, ← hnb, if_pos hfill]
  · have hplace : 7 - (i - (64 * s.nblk - 8)) = 64 * s.nblk - 1 - i := by omega
    rw [State.pbyte, if_neg hlt, if_neg heq, if_neg hfill, paddedByte, dif_neg (hlen ▸ hlt),
      if_neg (hlen ▸ heq), hlen, ← hnb, if_neg hfill, Vector.getElem?_eq_getElem (by omega),
      enc64_getElem, hbits, hplace]

/-- The block LDBLK reads is the block of the retained message. -/
theorem State.readBlock_eq_messageBlock (hw : s.msg.wf = true) (hbits : s.bitlen.toNat = 8 * s.mlen)
    (hnb : s.nblk = blockCount s.mlen) (hbi : s.bi < s.nblk) :
    s.readBlock = some (messageBlock s.msg.bytes s.bi) := by
  rw [s.readBlock_eq hw hbi, messageBlock]
  congr 2
  funext k
  rw [State.pbyte_eq_paddedByte hw hbits hnb (by omega)]
  rfl

/-! ### The schedule (R144) -/

theorem schedule_getElem_load (b : Vector Byte 64) {i : Nat} (h : i ≤ 15) :
    (schedule b)[i] = blockWord b i h := by
  rw [schedule_getElem, scheduleWord, dif_pos h]

theorem schedule_getElem_expand (b : Vector Byte 64) {i : Nat} (hlo : 16 ≤ i) (hhi : i < 64) :
    (schedule b)[i] = expandWord (schedule b)[i - 16] (schedule b)[i - 15] (schedule b)[i - 7]
      (schedule b)[i - 2] := by
  have hword : ∀ j, 0 < j → j ≤ i → (scheduleList b i)[i - j]?.getD 0 = (schedule b)[i - j] := by
    intro j hpos hle
    rw [scheduleList_getElem b i (i - j) (by omega) (by omega), Option.getD_some]
  rw [schedule_getElem, scheduleWord, dif_neg (by omega), hword 16, hword 15, hword 7, hword 2] <;> omega

end Sys2Proof.Machine
end

section
/-! PROOFS. Every step keeps that the registers hold the computation of the digest of MSG (R168, R193):
what each micro-operation adds to H, BLK, W and V. -/

namespace Sys2Proof.Machine

open Sys2Proof

variable {s t : State}

/-! ### What the phases say -/

/-- While the engine computes, no digest is claimed (R36). -/
theorem State.dvalid_of_computing (hs : s.Inv = true) (hc : s.phase.computing = true) :
    s.dvalid = false := by
  obtain ⟨-, -, -, -, -, -, hdv, -⟩ := s.inv_iff.mp hs
  simpa [hc] using hdv

/-- Where no digest is claimed, `Tracks` is what the phase says of the registers. -/
theorem State.tracks_of_computes (hd : s.dvalid = false) (h : s.computes) : s.Tracks :=
  ⟨by simp [hd], h⟩

/-- LDW goes on with LDW or EXPAND, which say the same of the registers. -/
theorem State.computes_of_scheduled (hp : s.phase = .expand ∨ s.phase = .ldw) (hh : s.chained)
    (hb : s.blockLoaded) (hw : s.scheduled) : s.computes := by
  obtain hp | hp := hp <;> simp only [State.computes, hp] <;> exact ⟨hh, hb, hw⟩

/-- So do ROUND and CHAIN. -/
theorem State.computes_of_roundsDone (hp : s.phase = .chain ∨ s.phase = .round) (hh : s.chained)
    (hb : s.blockLoaded) (hw : s.w = schedule s.blk) (hv : s.roundsDone) : s.computes := by
  obtain hp | hp := hp <;> simp only [State.computes, hp] <;> exact ⟨hh, hb, hw, hv⟩

/-- So do SERIALIZE and LDBLK. -/
theorem State.computes_of_chained (hp : s.phase = .serialize ∨ s.phase = .ldblk) (hh : s.chained) :
    s.computes := by
  obtain hp | hp := hp <;> simp only [State.computes, hp] <;> exact hh

/-! ### ACCEPT -/

/-- Sending a response changes nothing that `Tracks` reads. -/
theorem State.send_tracks (f : Frame) (h : s.Tracks) : (s.send f).Tracks := h

theorem State.dispatch_tracks (d : Decoded Command) (hp : s.phase = .idle) (h : s.Tracks) :
    (s.dispatch d).Tracks := by
  obtain ⟨hdigest, -⟩ := h
  obtain ⟨c, -, h⟩ | ⟨p, -, -, h⟩ | ⟨p, -, -, h⟩ | ⟨f, h⟩ := s.dispatch_cases d <;> rw [h]
  · exact ⟨hdigest, trivial⟩
  · exact ⟨nofun, trivial⟩
  · exact ⟨nofun, trivial⟩
  · exact ⟨hdigest, by simp [State.computes, hp]⟩

theorem execAccept_tracks (hp : s.phase = .idle) (hs : s.Tracks) (h : execAccept s = .next t) :
    t.Tracks := by
  obtain hw | ⟨f, rest, -, -, hd⟩ := execAccept_idle hp
  · cases hw.symm.trans h
    exact hs
  · cases hd.symm.trans h
    exact State.dispatch_tracks (s := { s with cmd := rest }) _ hp hs

theorem execAcceptHalt_tracks (hs : s.Tracks) (h : execAcceptHalt s = .next t) : t.Tracks := by
  obtain hw | ⟨f, rest, -, -, -, hd⟩ := execAcceptHalt_cases s
  · cases hw.symm.trans h
    exact hs
  · cases hd.symm.trans h
    obtain ⟨r, hr⟩ := State.dispatchHalted_cases { s with cmd := rest } (decodeFrame f)
    rw [hr]
    exact hs

/-! ### The schedule grows by one word -/

/-- Writing word T of BLK's schedule at T makes the first T + 1 words agree. -/
theorem State.scheduled.set (hw : s.scheduled) (ht : s.t.val < 64) {x : Word}
    (hx : x = (schedule s.blk)[s.t.val]) :
    ∀ (i : Nat) (_ : i < s.t.val + 1) (_ : i < 64), (s.w.set s.t.val x)[i] = (schedule s.blk)[i] := by
  intro i hi h64
  obtain rfl | hne := eq_or_ne s.t.val i
  · rw [Vector.getElem_set_self, hx]
  · rw [Vector.getElem_set_ne _ _ hne]
    exact hw i (by omega) h64

/-- With all 64 words written, W is the schedule. -/
theorem State.scheduled.eq_schedule (hw : s.scheduled) (ht : s.t.val = 64) : s.w = schedule s.blk :=
  vector_ext fun i hi => hw i (ht ▸ hi) hi

theorem execLdw_scheduled (hw : s.scheduled) (h : execLdw s = .next t) : t.scheduled := by
  obtain ⟨ht, rfl⟩ := execLdw_eq_next_iff.mp h
  exact hw.set (by omega) ((norm32_blockBytes ..).trans (schedule_getElem_load s.blk ht).symm)

theorem execExpand_scheduled (hw : s.scheduled) (h : execExpand s = .next t) : t.scheduled := by
  obtain ⟨ht, rfl⟩ := execExpand_eq_next_iff.mp h
  refine hw.set (by omega) ?_
  rw [schedule_getElem_expand s.blk ht.1 (by omega), hw, hw, hw, hw] <;> omega

/-! ### Rounds and blocks -/

theorem execRound_roundsDone (hw : s.w = schedule s.blk) (hv : s.roundsDone) (h : execRound s = .next t) :
    t.roundsDone := by
  obtain ⟨ht, rfl⟩ := execRound_eq_next_iff.mp h
  have hlt : s.t.val < 64 := by omega
  simp only [State.roundsDone, indexAfter_val, rounds, hlt, dite_true, ← hv.symm, hw]

theorem execChain_chained (hh : s.chained) (hb : s.blockLoaded) (hv : s.roundsDone)
    (ht : s.t.val = 64) (h : execChain s = .next t) : t.chained := by
  obtain rfl := execChain_eq_next_iff.mp h
  calc addWords s.h s.v
    _ = addWords s.h (rounds (schedule s.blk) s.h 64) := by rw [← ht, ← hv]
    _ = compress (hashState s.msg.bytes s.bi) (messageBlock s.msg.bytes s.bi) := by
      rw [← compress, hh, hb]
    _ = hashState s.msg.bytes (s.bi + 1) := rfl

/-- In SERIALIZE every block of the message has been chained, so H gives its digest. -/
theorem State.hexDigest_of_chained (hs : s.Inv = true) (hp : s.phase = .serialize) (hh : s.chained) :
    hexDigest s.h = sha256hex s.msg.bytes := by
  obtain ⟨-, -, -, -, -, -, -, -, -, hpos, hlens⟩ := s.inv_iff.mp hs
  obtain ⟨hbi, -⟩ := (State.positionOk_serialize hp).mp hpos
  obtain ⟨-, hnb⟩ := s.lengthsOk_iff.mp hlens (by rw [hp]; rfl)
  rw [hh, hbi, hnb, sha256hex, s.msg.bytes_length]
  rfl

/-! ### The step -/

theorem step_tracks (hs : s.Inv = true) (htr : s.Tracks) (h : step s = .next t) : t.Tracks := by
  obtain ⟨hwf, -, -, -, -, -, -, -, -, hpos, hlens⟩ := s.inv_iff.mp hs
  have hd := State.dvalid_of_computing hs
  have hcomp := htr.2
  unfold State.computes at hcomp
  cases hp : s.phase with
  | idle => exact execAccept_tracks hp htr (step_idle hp ▸ h)
  | halt => exact execAcceptHalt_tracks htr (step_halt hp ▸ h)
  | pad =>
    obtain ⟨-, rfl⟩ := execPad_eq_next_iff.mp (step_pad hp ▸ h)
    exact State.tracks_of_computes (hd (by rw [hp]; rfl)) trivial
  | seed =>
    obtain rfl := execSeed_eq_next_iff.mp (step_seed hp ▸ h)
    obtain ⟨hbi, -⟩ := (State.positionOk_seed hp).mp hpos
    have hchained : initialHash = hashState s.msg.bytes s.bi := by rw [hbi, hashState]
    exact State.tracks_of_computes (hd (by rw [hp]; rfl)) hchained
  | ldblk =>
    obtain ⟨hbi, b, hb, rfl⟩ := execLdblk_eq_next_iff.mp (step_ldblk hp ▸ h)
    obtain ⟨hbits, hnb⟩ := s.lengthsOk_iff.mp hlens (by rw [hp]; rfl)
    have hloaded : b = messageBlock s.msg.bytes s.bi :=
      Option.some.inj (hb.symm.trans (State.readBlock_eq_messageBlock hwf hbits hnb hbi))
    rw [hp] at hcomp
    exact State.tracks_of_computes (hd (by rw [hp]; rfl))
      ⟨hcomp, hloaded, fun _ hi => absurd hi (Nat.not_lt_zero _)⟩
  | ldw =>
    have h' := step_ldw hp ▸ h
    rw [hp] at hcomp
    obtain ⟨hchained, hloaded, hsched⟩ := hcomp
    have hsched' := execLdw_scheduled hsched h'
    obtain ⟨ht, rfl⟩ := execLdw_eq_next_iff.mp h'
    exact State.tracks_of_computes (hd (by rw [hp]; rfl))
      (State.computes_of_scheduled (ite_eq_or_eq ..) hchained hloaded hsched')
  | expand =>
    have h' := step_expand hp ▸ h
    rw [hp] at hcomp
    obtain ⟨hchained, hloaded, hsched⟩ := hcomp
    have hsched' := execExpand_scheduled hsched h'
    obtain ⟨ht, rfl⟩ := execExpand_eq_next_iff.mp h'
    refine State.tracks_of_computes (hd (by rw [hp]; rfl)) ?_
    by_cases hlast : s.t.val + 1 = 64
    · have hfull := hsched'.eq_schedule hlast
      simp only [if_pos hlast] at hfull ⊢
      exact ⟨hchained, hloaded, hfull⟩
    · simp only [if_neg hlast] at hsched' ⊢
      exact ⟨hchained, hloaded, hsched'⟩
  | initv =>
    obtain rfl := execInitv_eq_next_iff.mp (step_initv hp ▸ h)
    rw [hp] at hcomp
    obtain ⟨hchained, hloaded, hw⟩ := hcomp
    exact State.tracks_of_computes (hd (by rw [hp]; rfl)) ⟨hchained, hloaded, hw, rfl⟩
  | round =>
    have h' := step_round hp ▸ h
    rw [hp] at hcomp
    obtain ⟨hchained, hloaded, hw, hrounds⟩ := hcomp
    have hrounds' := execRound_roundsDone hw hrounds h'
    obtain ⟨ht, rfl⟩ := execRound_eq_next_iff.mp h'
    exact State.tracks_of_computes (hd (by rw [hp]; rfl))
      (State.computes_of_roundsDone (ite_eq_or_eq ..) hchained hloaded hw hrounds')
  | chain =>
    have h' := step_chain hp ▸ h
    rw [hp] at hcomp
    obtain ⟨hchained, hloaded, -, hrounds⟩ := hcomp
    obtain ⟨-, ht⟩ := (State.positionOk_chain hp).mp hpos
    have hchained' := execChain_chained hchained hloaded hrounds ht h'
    obtain rfl := execChain_eq_next_iff.mp h'
    exact State.tracks_of_computes (hd (by rw [hp]; rfl))
      (State.computes_of_chained (ite_eq_or_eq ..) hchained')
  | serialize =>
    obtain rfl := execSerialize_eq_next_iff.mp (step_serialize hp ▸ h)
    rw [hp] at hcomp
    exact ⟨fun _ => State.hexDigest_of_chained hs hp hcomp, trivial⟩

end Sys2Proof.Machine

namespace Sys2Proof.Proofs

open Sys2Proof Sys2Proof.Machine

/-- Settles O51, by the phase the step starts in. -/
theorem stepKeepsDigestOfMessage : Obligations.StepKeepsDigestOfMessage :=
  fun _ _ hs htr h => step_tracks hs htr h

end Sys2Proof.Proofs
end

section
/-! PROOFS. What reset leaves unspecified never reaches a response (R40, R41): each operation of the
command level keeps that two engines agree on the specified elements and the ports. -/

namespace Sys2Proof.Machine

open Sys2Proof

namespace State.AgreesOnSpecified

variable {s u : State}

/-! ### What is read is specified -/

theorem msg_eq (h : s.AgreesOnSpecified u) : u.msg = s.msg :=
  let ⟨hmsg, _⟩ := h
  hmsg

theorem phase_eq (h : s.AgreesOnSpecified u) : u.phase = s.phase :=
  let ⟨_, hphase, _⟩ := h
  hphase

theorem fault_eq (h : s.AgreesOnSpecified u) : u.fault = s.fault :=
  let ⟨_, _, _, hfault, _⟩ := h
  hfault

theorem dvalid_eq (h : s.AgreesOnSpecified u) : u.dvalid = s.dvalid :=
  let ⟨_, _, _, _, _, hdvalid, _⟩ := h
  hdvalid

theorem cmd_eq (h : s.AgreesOnSpecified u) : u.cmd = s.cmd :=
  let ⟨_, _, _, _, _, _, hcmd, _⟩ := h
  hcmd

theorem mlen_eq (h : s.AgreesOnSpecified u) : u.mlen = s.mlen := congrArg List.length h.msg_eq

theorem accepting_eq (h : s.AgreesOnSpecified u) : u.accepting = s.accepting := by
  obtain ⟨-, hphase, -, -, hbusy, -⟩ := h
  rw [State.accepting, State.ready, hphase, hbusy, ← State.ready, ← State.accepting]

theorem hashTooLong_eq (h : s.AgreesOnSpecified u) (p : List Byte) : u.hashTooLong p = s.hashTooLong p := by
  obtain ⟨-, -, -, -, -, -, -, -, hparams, -⟩ := h
  rw [State.hashTooLong, hparams, ← State.hashTooLong]

theorem updateTooLong_eq (h : s.AgreesOnSpecified u) (p : List Byte) :
    u.updateTooLong p = s.updateTooLong p := by
  have hmlen := h.mlen_eq
  obtain ⟨-, -, -, -, -, -, -, -, hparams, -⟩ := h
  rw [State.updateTooLong, hparams, hmlen, ← State.updateTooLong]

/-- STATUS reports specified elements only. -/
theorem statusResponse_eq (h : s.AgreesOnSpecified u) : u.statusResponse = s.statusResponse := by
  have hmlen := h.mlen_eq
  obtain ⟨-, hphase, hle, hfault, hbusy, hdvalid, -⟩ := h
  have hsr : u.sr = s.sr := by
    rw [State.sr, hbusy, hdvalid, hle, hfault, hphase, ← State.sr]
  rw [State.statusResponse, hsr, hmlen, ← State.statusResponse]

/-- DIGEST is reported only while DVALID = 1. -/
theorem digestResponse_eq (h : s.AgreesOnSpecified u) (hd : s.dvalid = true) :
    u.digestResponse = s.digestResponse := by
  obtain ⟨-, -, -, -, -, -, -, -, -, hdigest⟩ := h
  rw [State.digestResponse, hdigest hd, ← State.digestResponse]

/-! ### What each operation of the ports, of fault entry and of acceptance keeps -/

theorem withCmd (h : s.AgreesOnSpecified u) (q : List Frame) :
    { s with cmd := q }.AgreesOnSpecified { u with cmd := q } := by
  obtain ⟨hmsg, hphase, hle, hfault, hbusy, hdvalid, -, hrsp, hparams, hdigest⟩ := h
  exact ⟨hmsg, hphase, hle, hfault, hbusy, hdvalid, rfl, hrsp, hparams, hdigest⟩

theorem hold (h : s.AgreesOnSpecified u) (f : Frame) : (s.hold f).AgreesOnSpecified (u.hold f) := by
  rw [State.hold, State.hold, h.cmd_eq]
  exact h.withCmd _

theorem send (h : s.AgreesOnSpecified u) (f : Frame) : (s.send f).AgreesOnSpecified (u.send f) := by
  obtain ⟨hmsg, hphase, hle, hfault, hbusy, hdvalid, hcmd, hrsp, hparams, hdigest⟩ := h
  exact ⟨hmsg, hphase, hle, hfault, hbusy, hdvalid, hcmd, congrArg (· ++ [f]) hrsp, hparams, hdigest⟩

theorem raise (h : s.AgreesOnSpecified u) (c : FaultCode) : (s.raise c).AgreesOnSpecified (u.raise c) := by
  obtain ⟨hmsg, -, hle, -, hbusy, hdvalid, hcmd, hrsp, hparams, hdigest⟩ := h
  exact ⟨hmsg, rfl, hle, rfl, hbusy, hdvalid, hcmd, congrArg (· ++ [[faultStatus c]]) hrsp, hparams, hdigest⟩

theorem answerHalted (h : s.AgreesOnSpecified u) : s.answerHalted.AgreesOnSpecified u.answerHalted := by
  rw [State.answerHalted, State.answerHalted, h.fault_eq]
  exact h.send _

theorem startHash (h : s.AgreesOnSpecified u) (p : List Byte) :
    (s.startHash p).AgreesOnSpecified (u.startHash p) := by
  obtain ⟨-, -, hle, hfault, -, -, hcmd, hrsp, hparams, -⟩ := h
  exact ⟨rfl, rfl, hle, hfault, rfl, rfl, hcmd, hrsp, hparams, nofun⟩

theorem startUpdate (h : s.AgreesOnSpecified u) (p : List Byte) :
    (s.startUpdate p).AgreesOnSpecified (u.startUpdate p) := by
  obtain ⟨hmsg, -, hle, hfault, -, -, hcmd, hrsp, hparams, -⟩ := h
  exact ⟨congrArg (Memory.append · p) hmsg, rfl, hle, hfault, rfl, rfl, hcmd, hrsp, hparams, nofun⟩

/-- Run writes every hidden element it reads before it reads it: DIGEST comes out a function of `m`. -/
theorem runCommand (h : s.AgreesOnSpecified u) (m : List Byte) :
    (s.runCommand m).AgreesOnSpecified (u.runCommand m) := by
  obtain ⟨hmsg, -, hle, hfault, -, -, hcmd, hrsp, hparams, -⟩ := h
  exact ⟨hmsg, rfl, hle, hfault, rfl, rfl, hcmd, hrsp, hparams, fun _ => rfl⟩

/-! ### The commands -/

theorem hashEffect (h : s.AgreesOnSpecified u) (p : List Byte) :
    (s.hashEffect p).AgreesOnSpecified (u.hashEffect p) := by
  unfold State.hashEffect
  rw [h.hashTooLong_eq p]
  split
  · exact h.raise _
  · have hrun := (h.startHash p).runCommand p
    simp only [hrun.digestResponse_eq rfl]
    exact hrun.send _

theorem updateEffect (h : s.AgreesOnSpecified u) (p : List Byte) :
    (s.updateEffect p).AgreesOnSpecified (u.updateEffect p) := by
  unfold State.updateEffect
  rw [h.updateTooLong_eq p, h.msg_eq]
  split
  · exact h.raise _
  · exact ((h.startUpdate p).runCommand _).send _

theorem digestEffect (h : s.AgreesOnSpecified u) : s.digestEffect.AgreesOnSpecified u.digestEffect := by
  unfold State.digestEffect
  rw [h.dvalid_eq]
  split
  case isTrue hd =>
    rw [h.digestResponse_eq hd]
    exact h.send _
  case isFalse => exact h.raise _

theorem rejectFrame (h : s.AgreesOnSpecified u) : s.rejectFrame.AgreesOnSpecified u.rejectFrame := by
  unfold State.rejectFrame
  rw [h.phase_eq]
  split
  · exact h.answerHalted
  · exact h.raise _

/-- A command keeps agreement where its effect in IDLE does. -/
theorem command (h : s.AgreesOnSpecified u) (c : Command) {effect : State → State}
    (he : (effect s).AgreesOnSpecified (effect u)) :
    (s.command c effect).AgreesOnSpecified (u.command c effect) := by
  unfold State.command
  rw [h.accepting_eq, h.phase_eq]
  split
  · split
    · exact h.answerHalted
    · exact he
  · exact h.hold _

/-- Every command answers a next state, and from engines that agree, states that agree. -/
theorem exec_command (h : s.AgreesOnSpecified u) (c : Command) :
    ∃ t v, exec (commandInstr c) s = .next t ∧ exec (commandInstr c) u = .next v
      ∧ t.AgreesOnSpecified v := by
  cases c with
  | hash p => exact ⟨_, _, rfl, rfl, h.command _ (h.hashEffect p)⟩
  | update p => exact ⟨_, _, rfl, rfl, h.command _ (h.updateEffect p)⟩
  | digest => exact ⟨_, _, rfl, rfl, h.command _ h.digestEffect⟩
  | status =>
    refine ⟨_, _, rfl, rfl, ?_⟩
    rw [h.accepting_eq, h.statusResponse_eq]
    split
    · exact h.send _
    · exact h.hold _

theorem commandStep {t : State} (h : s.AgreesOnSpecified u) (hst : Machine.commandStep s = .next t) :
    ∃ v, Machine.commandStep u = .next v ∧ t.AgreesOnSpecified v := by
  unfold Machine.commandStep at hst ⊢
  rw [h.cmd_eq, h.accepting_eq]
  split at hst
  case h_1 => cases hst; exact ⟨u, rfl, h⟩
  case h_2 f rest hf =>
    have hrest := h.withCmd rest
    split at hst
    case isFalse hacc => cases hst; exact ⟨u, if_neg hacc, h⟩
    case isTrue hacc =>
      simp only [if_pos hacc]
      split at hst
      case h_1 c hc =>
        obtain ⟨t', v, ht, hv, hag⟩ := hrest.exec_command c
        cases ht.symm.trans hst
        exact ⟨v, hv, hag⟩
      case h_2 => cases hst; exact ⟨_, rfl, hrest.rejectFrame⟩

end State.AgreesOnSpecified

end Sys2Proof.Machine

namespace Sys2Proof.Proofs

open Sys2Proof Sys2Proof.Machine

/-- Settles O56: whatever frame is at the head of CMD, its command reads specified elements, or DIGEST
while DVALID = 1, or what it has written itself. -/
theorem unspecifiedStateIsNeverObserved : Obligations.UnspecifiedStateIsNeverObserved :=
  fun _ _ _ hag h => hag.commandStep h

end Sys2Proof.Proofs
end

section
/-! PROOFS. The platform's byte order reaches LANE only (R51, R109): the normalizer's results do not depend
on it, and each operation and each step keeps that two engines agree but for it. -/

namespace Sys2Proof.Machine

open Sys2Proof

variable {s u t : State}

/-! ### The normalizer's results (R109) -/

theorem enc64_byteOrder (le le' : Bool) (x : BitVec 64) (lane lane' : Vector Byte 8) :
    enc64 le x lane = enc64 le' x lane' :=
  vector_ext fun k hk => (enc64_getElem le x lane k hk).trans (enc64_getElem le' x lane' k hk).symm

theorem norm32_byteOrder (le le' : Bool) (b : Vector Byte 4) (lane lane' : Vector Byte 8) :
    norm32 le b lane = norm32 le' b lane' :=
  (norm32_eq_append le b lane).trans (norm32_eq_append le' b lane').symm

/-! ### Frames -/

/-- Encode inverts Decode on the frames that decode (R75). -/
theorem encodeFrame_of_decodeFrame {f : Frame} {c : Command} (h : decodeFrame f = .ok c) :
    encodeFrame c = f := by
  unfold decodeFrame at h
  split at h
  · cases h
  · split at h
    · cases h; simp [encodeFrame, *]
    split at h
    · cases h; simp [encodeFrame, *]
    split at h
    · split at h <;> cases h
      simp [encodeFrame, *]
    split at h
    · split at h <;> cases h
      simp [encodeFrame, *]
    · cases h

/-- A frame at the head of CMD that is not 04 is not decoded to STATUS. -/
theorem decodeFrame_ne_status {f : Frame} {rest : List Frame} (hc : s.cmd = f :: rest)
    (h : s.cmd.head? ≠ some [0x04]) : decodeFrame f ≠ .ok .status := by
  intro hd
  have hf : [0x04] = f := encodeFrame_of_decodeFrame hd
  simp [hc, ← hf] at h

namespace State.AgreesButByteOrder

/-! ### What the two engines share -/

/-- The second engine is the first with other values of LE, LANE and PLATFORM_LE. -/
theorem exists_eq (h : s.AgreesButByteOrder u) :
    ∃ le lane params, params.maxBytes = s.params.maxBytes
      ∧ u = { s with le := le, lane := lane, params := params } :=
  ⟨u.le, u.lane, u.params, h.2, h.1⟩

theorem cmd_eq (h : s.AgreesButByteOrder u) : u.cmd = s.cmd := (congrArg State.cmd h.1 :)

theorem phase_eq (h : s.AgreesButByteOrder u) : u.phase = s.phase := (congrArg State.phase h.1 :)

theorem ready_eq (h : s.AgreesButByteOrder u) : u.ready = s.ready := (congrArg State.ready h.1 :)

theorem dvalid_eq (h : s.AgreesButByteOrder u) : u.dvalid = s.dvalid := (congrArg State.dvalid h.1 :)

theorem hashTooLong_eq (h : s.AgreesButByteOrder u) (p : List Byte) :
    u.hashTooLong p = s.hashTooLong p := by
  rw [State.hashTooLong, h.2, ← State.hashTooLong]

theorem updateTooLong_eq (h : s.AgreesButByteOrder u) (p : List Byte) :
    u.updateTooLong p = s.updateTooLong p := by
  have hmlen : u.mlen = s.mlen := (congrArg State.mlen h.1 :)
  rw [State.updateTooLong, h.2, hmlen, ← State.updateTooLong]

theorem digestResponse_eq (h : s.AgreesButByteOrder u) : u.digestResponse = s.digestResponse :=
  (congrArg State.digestResponse h.1 :)

/-- Byte i of the padded message reads LANE through ENC64 only. -/
theorem pbyte_eq (h : s.AgreesButByteOrder u) (i : Nat) : u.pbyte i = s.pbyte i := by
  obtain ⟨le, lane, params, -, rfl⟩ := h.exists_eq
  rw [State.pbyte, enc64_byteOrder le s.le s.bitlen lane s.lane]
  rfl

theorem readBlock_eq (h : s.AgreesButByteOrder u) : u.readBlock = s.readBlock := by
  have hbi : u.bi = s.bi := (congrArg State.bi h.1 :)
  simp only [State.readBlock, h.pbyte_eq, hbi]

/-! ### What the ports, fault entry and acceptance keep -/

theorem withCmd (h : s.AgreesButByteOrder u) (q : List Frame) :
    { s with cmd := q }.AgreesButByteOrder { u with cmd := q } := by
  obtain ⟨le, lane, params, hmax, rfl⟩ := h.exists_eq
  exact ⟨rfl, hmax⟩

theorem send (h : s.AgreesButByteOrder u) (f : Frame) : (s.send f).AgreesButByteOrder (u.send f) := by
  obtain ⟨le, lane, params, hmax, rfl⟩ := h.exists_eq
  exact ⟨rfl, hmax⟩

theorem raise (h : s.AgreesButByteOrder u) (c : FaultCode) :
    (s.raise c).AgreesButByteOrder (u.raise c) := by
  obtain ⟨le, lane, params, hmax, rfl⟩ := h.exists_eq
  exact ⟨rfl, hmax⟩

theorem answerHalted (h : s.AgreesButByteOrder u) :
    s.answerHalted.AgreesButByteOrder u.answerHalted := by
  obtain ⟨le, lane, params, hmax, rfl⟩ := h.exists_eq
  exact ⟨rfl, hmax⟩

theorem startHash (h : s.AgreesButByteOrder u) (p : List Byte) :
    (s.startHash p).AgreesButByteOrder (u.startHash p) := by
  obtain ⟨le, lane, params, hmax, rfl⟩ := h.exists_eq
  exact ⟨rfl, hmax⟩

theorem startUpdate (h : s.AgreesButByteOrder u) (p : List Byte) :
    (s.startUpdate p).AgreesButByteOrder (u.startUpdate p) := by
  obtain ⟨le, lane, params, hmax, rfl⟩ := h.exists_eq
  exact ⟨rfl, hmax⟩

theorem digestEffect (h : s.AgreesButByteOrder u) :
    s.digestEffect.AgreesButByteOrder u.digestEffect := by
  unfold State.digestEffect
  rw [h.dvalid_eq, h.digestResponse_eq]
  split
  · exact h.send _
  · exact h.raise _

/-! ### ACCEPT of a frame other than STATUS (R200) -/

theorem dispatch (h : s.AgreesButByteOrder u) {d : Decoded Command} (hd : d ≠ .ok .status) :
    (s.dispatch d).AgreesButByteOrder (u.dispatch d) := by
  match d, hd with
  | .illegal _, _ => exact h.raise _
  | .ok (.hash p), _ =>
    simp only [State.dispatch, h.hashTooLong_eq]
    split
    · exact h.raise _
    · exact h.startHash p
  | .ok (.update p), _ =>
    simp only [State.dispatch, h.updateTooLong_eq]
    split
    · exact h.raise _
    · exact h.startUpdate p
  | .ok .digest, _ => exact h.digestEffect

theorem dispatchHalted (h : s.AgreesButByteOrder u) {d : Decoded Command} (hd : d ≠ .ok .status) :
    (s.dispatchHalted d).AgreesButByteOrder (u.dispatchHalted d) := by
  match d, hd with
  | .illegal _, _ => exact h.answerHalted
  | .ok (.hash _), _ => exact h.answerHalted
  | .ok (.update _), _ => exact h.answerHalted
  | .ok .digest, _ => exact h.answerHalted

theorem execAcceptHalt (h : s.AgreesButByteOrder u) (hf : s.cmd.head? ≠ some [0x04])
    (hst : Machine.execAcceptHalt s = .next t) :
    ∃ v, Machine.execAcceptHalt u = .next v ∧ t.AgreesButByteOrder v := by
  unfold Machine.execAcceptHalt at hst ⊢
  rw [h.cmd_eq]
  split at hst
  case h_1 => cases hst; exact ⟨u, rfl, h⟩
  case h_2 f rest hc =>
    split at hst
    case isTrue hen =>
      cases hst
      exact ⟨_, if_pos (by rwa [h.ready_eq, h.phase_eq]),
        (h.withCmd rest).dispatchHalted (decodeFrame_ne_status hc hf)⟩
    case isFalse hen =>
      cases hst
      exact ⟨u, if_neg (by rwa [h.ready_eq, h.phase_eq]), h⟩

theorem execAccept (h : s.AgreesButByteOrder u) (hf : s.cmd.head? ≠ some [0x04])
    (hst : Machine.execAccept s = .next t) :
    ∃ v, Machine.execAccept u = .next v ∧ t.AgreesButByteOrder v := by
  unfold Machine.execAccept at hst ⊢
  rw [h.cmd_eq]
  split at hst
  case h_1 => cases hst; exact ⟨u, rfl, h⟩
  case h_2 f rest hc =>
    split at hst
    case isTrue hen =>
      cases hst
      exact ⟨_, if_pos (by rwa [h.ready_eq, h.phase_eq]),
        (h.withCmd rest).dispatch (decodeFrame_ne_status hc hf)⟩
    case isFalse hen =>
      obtain ⟨v, hv, hag⟩ := h.execAcceptHalt hf hst
      exact ⟨v, (if_neg (by rwa [h.ready_eq, h.phase_eq])).trans hv, hag⟩

/-! ### The micro-operations that read LANE -/

theorem execLdblk (h : s.AgreesButByteOrder u) (hst : Machine.execLdblk s = .next t) :
    ∃ v, Machine.execLdblk u = .next v ∧ t.AgreesButByteOrder v := by
  have hread := h.readBlock_eq
  obtain ⟨le, lane, params, hmax, rfl⟩ := h.exists_eq
  obtain ⟨hbi, b, hb, rfl⟩ := execLdblk_eq_next_iff.mp hst
  exact ⟨_, execLdblk_eq_next_iff.mpr ⟨hbi, b, hread.trans hb, rfl⟩, rfl, hmax⟩

theorem execLdw (h : s.AgreesButByteOrder u) (hst : Machine.execLdw s = .next t) :
    ∃ v, Machine.execLdw u = .next v ∧ t.AgreesButByteOrder v := by
  obtain ⟨le, lane, params, hmax, rfl⟩ := h.exists_eq
  obtain ⟨ht, rfl⟩ := execLdw_eq_next_iff.mp hst
  refine ⟨_, execLdw_eq_next_iff.mpr ⟨ht, rfl⟩, ?_, hmax⟩
  rw [norm32_byteOrder s.le le _ s.lane lane]

/-! ### The step -/

theorem step (h : s.AgreesButByteOrder u)
    (hf : s.phase.computing = false → s.cmd.head? ≠ some [0x04]) (hst : Machine.step s = .next t) :
    ∃ v, Machine.step u = .next v ∧ t.AgreesButByteOrder v := by
  have hpu := h.phase_eq
  cases hp : s.phase with
  | idle =>
    rw [step_idle hp] at hst
    rw [step_idle (hpu.trans hp)]
    exact h.execAccept (hf (by rw [hp]; rfl)) hst
  | halt =>
    rw [step_halt hp] at hst
    rw [step_halt (hpu.trans hp)]
    exact h.execAcceptHalt (hf (by rw [hp]; rfl)) hst
  | ldblk =>
    rw [step_ldblk hp] at hst
    rw [step_ldblk (hpu.trans hp)]
    exact h.execLdblk hst
  | ldw =>
    rw [step_ldw hp] at hst
    rw [step_ldw (hpu.trans hp)]
    exact h.execLdw hst
  | pad =>
    obtain ⟨le, lane, params, hmax, rfl⟩ := h.exists_eq
    obtain ⟨hlen, rfl⟩ := execPad_eq_next_iff.mp (step_pad hp ▸ hst)
    exact ⟨_, (step_pad (hpu.trans hp)).trans (execPad_eq_next_iff.mpr ⟨hlen, rfl⟩), rfl, hmax⟩
  | seed =>
    obtain ⟨le, lane, params, hmax, rfl⟩ := h.exists_eq
    obtain rfl := execSeed_eq_next_iff.mp (step_seed hp ▸ hst)
    exact ⟨_, step_seed (hpu.trans hp), rfl, hmax⟩
  | expand =>
    obtain ⟨le, lane, params, hmax, rfl⟩ := h.exists_eq
    obtain ⟨ht, rfl⟩ := execExpand_eq_next_iff.mp (step_expand hp ▸ hst)
    exact ⟨_, (step_expand (hpu.trans hp)).trans (execExpand_eq_next_iff.mpr ⟨ht, rfl⟩), rfl, hmax⟩
  | initv =>
    obtain ⟨le, lane, params, hmax, rfl⟩ := h.exists_eq
    obtain rfl := execInitv_eq_next_iff.mp (step_initv hp ▸ hst)
    exact ⟨_, step_initv (hpu.trans hp), rfl, hmax⟩
  | round =>
    obtain ⟨le, lane, params, hmax, rfl⟩ := h.exists_eq
    obtain ⟨ht, rfl⟩ := execRound_eq_next_iff.mp (step_round hp ▸ hst)
    exact ⟨_, (step_round (hpu.trans hp)).trans (execRound_eq_next_iff.mpr ⟨ht, rfl⟩), rfl, hmax⟩
  | chain =>
    obtain ⟨le, lane, params, hmax, rfl⟩ := h.exists_eq
    obtain rfl := execChain_eq_next_iff.mp (step_chain hp ▸ hst)
    exact ⟨_, step_chain (hpu.trans hp), rfl, hmax⟩
  | serialize =>
    obtain ⟨le, lane, params, hmax, rfl⟩ := h.exists_eq
    obtain rfl := execSerialize_eq_next_iff.mp (step_serialize hp ▸ hst)
    exact ⟨_, (step_serialize (hpu.trans hp)).trans (execSerialize_eq_next_iff.mpr rfl), rfl, hmax⟩

end State.AgreesButByteOrder

end Sys2Proof.Machine

namespace Sys2Proof.Proofs

open Sys2Proof Sys2Proof.Machine

/-- Settles O55: by the phase the step starts in; the micro-operations that read LANE take from it what the
normalizer makes independent of the byte order. -/
theorem byteOrderReachesOnlyLane : Obligations.ByteOrderReachesOnlyLane :=
  fun _ _ _ hag hf hst => hag.step hf hst

end Sys2Proof.Proofs
end

section
/-! PROOFS. The message store and the block loaded from it (R26, R62, R124), and the stops outside the
spec's domain (R50, R127). -/

namespace Sys2Proof.Machine

open Sys2Proof

variable {s t : State}

/-! ### MSG is written in IDLE only -/

theorem execAcceptHalt_msg (h : execAcceptHalt s = .next t) : t.msg = s.msg := by
  obtain hw | ⟨f, rest, -, -, -, hd⟩ := execAcceptHalt_cases s
  · cases hw.symm.trans h
    rfl
  · cases hd.symm.trans h
    obtain ⟨r, hr⟩ := State.dispatchHalted_cases { s with cmd := rest } (decodeFrame f)
    rw [hr, State.send_msg]

theorem step_msg (hp : s.phase ≠ .idle) (h : step s = .next t) : t.msg = s.msg := by
  cases hps : s.phase with
  | idle => exact absurd hps hp
  | pad =>
    obtain ⟨-, rfl⟩ := execPad_eq_next_iff.mp (step_pad hps ▸ h)
    rfl
  | seed =>
    obtain rfl := execSeed_eq_next_iff.mp (step_seed hps ▸ h)
    rfl
  | ldblk =>
    obtain ⟨-, b, -, rfl⟩ := execLdblk_eq_next_iff.mp (step_ldblk hps ▸ h)
    rfl
  | ldw =>
    obtain ⟨-, rfl⟩ := execLdw_eq_next_iff.mp (step_ldw hps ▸ h)
    rfl
  | expand =>
    obtain ⟨-, rfl⟩ := execExpand_eq_next_iff.mp (step_expand hps ▸ h)
    rfl
  | initv =>
    obtain rfl := execInitv_eq_next_iff.mp (step_initv hps ▸ h)
    rfl
  | round =>
    obtain ⟨-, rfl⟩ := execRound_eq_next_iff.mp (step_round hps ▸ h)
    rfl
  | chain =>
    obtain rfl := execChain_eq_next_iff.mp (step_chain hps ▸ h)
    rfl
  | serialize =>
    obtain rfl := execSerialize_eq_next_iff.mp (step_serialize hps ▸ h)
    rfl
  | halt => exact execAcceptHalt_msg (step_halt hps ▸ h)

/-! ### LDBLK under the invariant -/

theorem execLdblk_blk (hs : s.Inv = true) (hp : s.phase = .ldblk) :
    ∃ t, execLdblk s = .next t ∧ t.blk = messageBlock s.msg.bytes s.bi := by
  obtain ⟨hwf, -, -, -, -, -, -, -, -, hpos, hlens⟩ := s.inv_iff.mp hs
  have hbi := (State.positionOk_ldblk hp).mp hpos
  obtain ⟨hbits, hnb⟩ := s.lengthsOk_iff.mp hlens (by rw [hp]; rfl)
  exact ⟨_, execLdblk_eq_next_iff.mpr
    ⟨hbi, _, State.readBlock_eq_messageBlock hwf hbits hnb hbi, rfl⟩, rfl⟩

/-! ### REV of no bytes -/

theorem reverseLane_zero (h : 0 ≤ 8) (lane : Vector Byte 8) : reverseLane 0 h lane = lane :=
  vector_ext fun k hk => by simp [reverseLane]

end Sys2Proof.Machine

namespace Sys2Proof.Proofs

open Sys2Proof Sys2Proof.Machine

/-- Settles O22: the invariant fixes the lengths, and with them the padded message. -/
theorem loadedBlockDependsOnMessageOnly : Obligations.LoadedBlockDependsOnMessageOnly :=
  fun _ hs hp => execLdblk_blk hs hp

/-- Settles O57, by the phase the step starts in. -/
theorem messageStableDuringComputation : Obligations.MessageStableDuringComputation := by
  intro s t hp h
  have hmsg := step_msg hp h
  exact ⟨hmsg, fun i => congrArg (·.read i) hmsg⟩

/-- Settles O26: each guard fails. -/
theorem indicesOutsideSpacesStop : Obligations.IndicesOutsideSpacesStop := by
  intro s
  refine ⟨fun h => ?_, fun h => ?_, fun h => ?_, fun h => ?_, fun h => ?_, fun n h => ?_, ?_⟩
  · exact dif_neg (by omega)
  · exact dif_neg (by omega)
  · exact dif_neg (by omega)
  · exact if_neg (by omega)
  · exact if_neg (by omega)
  · exact dif_neg (by omega)
  · have hlane := reverseLane_zero (by decide) s.lane
    simp only [exec, execRev, Nat.zero_le, dite_true, hlane]

end Sys2Proof.Proofs
end

section
/-! PROOFS. NativeRead and NativeWrite (R52): the bytes NativeRead reads back, most significant first, are
those of the integer NativeWrite wrote, and a reversal turns the one byte order into the other. -/

namespace Sys2Proof.Machine

open Sys2Proof

/-! ### The integer of a byte sequence -/

theorem bigEndianValue_concat (b : List Byte) (x : Byte) :
    bigEndianValue (b ++ [x]) = bigEndianValue b * 256 + x.toNat := by
  simp [bigEndianValue]

theorem bigEndian_succ (n v : Nat) :
    bigEndian (n + 1) v = bigEndian n (v / 256) ++ [BitVec.ofNat 8 v] := by
  have hdiv : ∀ k ∈ List.range n,
      BitVec.ofNat 8 (v / 2 ^ (8 * (n - k))) = BitVec.ofNat 8 (v / 256 / 2 ^ (8 * (n - 1 - k))) := by
    intro k hk
    have hsplit : 8 * (n - k) = 8 + 8 * (n - 1 - k) := by
      have := List.mem_range.mp hk
      omega
    rw [hsplit, Nat.pow_add, ← Nat.div_div_eq_div_mul]
  have hlast : BitVec.ofNat 8 (v / 2 ^ (8 * (n - n))) = BitVec.ofNat 8 v := by simp
  rw [bigEndian, List.range_succ, List.map_append, Nat.add_sub_cancel, List.map_congr_left hdiv,
    ← bigEndian, List.map_singleton, hlast]

/-- The integer of the n bytes of an integer that fits them. -/
theorem bigEndianValue_bigEndian {n v : Nat} (h : v < 2 ^ (8 * n)) :
    bigEndianValue (bigEndian n v) = v := by
  induction n generalizing v with
  | zero =>
    have hv : v = 0 := by simpa using h
    simp [bigEndian, bigEndianValue, hv]
  | succ n ih =>
    have hquot : v / 256 < 2 ^ (8 * n) := by
      rw [Nat.mul_succ, Nat.pow_add] at h
      exact Nat.div_lt_of_lt_mul (by omega)
    rw [bigEndian_succ, bigEndianValue_concat, ih hquot, BitVec.toNat_ofNat]
    exact Nat.div_add_mod' v 256

/-! ### The lane -/

theorem lane_toList (lane : Vector Byte 8) :
    lane.toList = [lane[0], lane[1], lane[2], lane[3], lane[4], lane[5], lane[6], lane[7]] := by
  rw [← Vector.ofFn_getElem (xs := lane), Vector.toList_ofFn]
  simp [List.ofFn_succ]

/-- NativeRead weights each byte by its place in the platform's order. -/
theorem nativeRead_eq_sum (le : Bool) {n : Nat} (lane : Vector Byte 8) (hn : n = 4 ∨ n = 8) :
    nativeRead le n lane
      = ∑ k : Fin 8, (if k.val < n
          then lane[k].toNat * 2 ^ (8 * (if le then k.val else n - 1 - k.val)) else 0) := by
  rw [nativeRead, lane_toList, Fin.sum_univ_eight]
  obtain rfl | rfl := hn
  · cases le <;> simp [bigEndianValue] <;> omega
  · cases le <;> simp [bigEndianValue] <;> omega

theorem nativeWrite_getElem_lt (le : Bool) {n : Nat} (x : Nat) (lane : Vector Byte 8) {k : Nat}
    (hk : k < 8) (h : k < n) :
    (nativeWrite le n x lane)[k] = BitVec.ofNat 8 (x / 2 ^ (8 * (if le then k else n - 1 - k))) := by
  simp [nativeWrite, h]

theorem nativeWrite_getElem_ge (le : Bool) {n : Nat} (x : Nat) (lane : Vector Byte 8) {k : Nat}
    (hk : k < 8) (h : n ≤ k) : (nativeWrite le n x lane)[k] = lane[k] := by
  simp [nativeWrite, Nat.not_lt.mpr h]

/-- The bytes NativeRead takes after NativeWrite, most significant first, are the integer's. -/
theorem nativeRead_nativeWrite (le : Bool) {n : Nat} (hn : n ≤ 8) (lane : Vector Byte 8) {x : Nat}
    (hx : x < 2 ^ (8 * n)) : nativeRead le n (nativeWrite le n x lane) = x := by
  have hbytes : (if le then ((nativeWrite le n x lane).toList.take n).reverse
      else (nativeWrite le n x lane).toList.take n) = bigEndian n x := by
    apply List.ext_getElem
    · cases le <;> simp [bigEndian, hn]
    · intro k hk hk'
      have hkn : k < n := by simpa [bigEndian] using hk'
      cases le
      · simp [bigEndian, nativeWrite_getElem_lt, hkn]
      · have hrev : n - 1 - k < n := by omega
        simp [bigEndian, hn, nativeWrite_getElem_lt, hrev]
  rw [nativeRead, hbytes, bigEndianValue_bigEndian hx]

/-- REV(n) turns the first n bytes of LANE into their reverse. -/
theorem take_reverseLane {n : Nat} (h : n ≤ 8) (lane : Vector Byte 8) :
    (reverseLane n h lane).toList.take n = (lane.toList.take n).reverse := by
  apply List.ext_getElem
  · simp
  · intro k hk hk'
    have hkn : k < n := by simpa [h] using hk
    simp [reverseLane, hkn, h]

/-- Reading in the other order after REV(n) is reading (R101, R52). -/
theorem nativeRead_reverseLane (le : Bool) {n : Nat} (h : n ≤ 8) (lane : Vector Byte 8) :
    nativeRead (!le) n (reverseLane n h lane) = nativeRead le n lane := by
  cases le <;> simp [nativeRead, take_reverseLane]

end Sys2Proof.Machine

namespace Sys2Proof.Proofs

open Sys2Proof Sys2Proof.Machine

/-- Settles O14: the two results of reading back are `nativeRead_nativeWrite`, the second after
`nativeRead_reverseLane`. -/
theorem nativeLaneAccess : Obligations.NativeLaneAccess := by
  intro le n lane hn
  have hn8 : n ≤ 8 := by omega
  refine ⟨?_, fun x hx => ⟨fun k hk => ?_, fun k hk => ?_, ?_, fun h => ?_⟩⟩
  · exact nativeRead_eq_sum le lane hn
  · simp [nativeWrite_getElem_lt, hk]
  · exact nativeWrite_getElem_ge le x lane k.isLt hk
  · exact nativeRead_nativeWrite le hn8 lane hx
  · rw [nativeRead_reverseLane, nativeRead_nativeWrite le hn8 lane hx]

end Sys2Proof.Proofs
end

section
/-! PROOFS. The decoder and the encoder (R73 to R75, R79, R80): Encode and Decode of frames are inverse, so a
frame is illegal exactly when no command encodes to it, and ACCEPT of such a frame raises F_ILLEGAL (R242). -/

namespace Sys2Proof.Machine

open Sys2Proof

variable {s : State} {f : Frame} {rest : List Frame}

/-! ### Frames (R74, R75) -/

/-- Decode inverts Encode (R75). -/
@[simp] theorem decodeFrame_encodeFrame (c : Command) : decodeFrame (encodeFrame c) = .ok c := by
  cases c <;> rfl

/-- The legal frames are the encodings of the commands (R75). -/
theorem decodeFrame_eq_ok_iff {c : Command} : decodeFrame f = .ok c ↔ encodeFrame c = f :=
  ⟨encodeFrame_of_decodeFrame, fun h => h ▸ decodeFrame_encodeFrame c⟩

theorem decodeFrame_illegal_iff : (∃ why, decodeFrame f = .illegal why) ↔ ∀ c, encodeFrame c ≠ f := by
  simp only [ne_eq, ← decodeFrame_eq_ok_iff]
  cases decodeFrame f <;> simp

theorem decodeFrame_cons_illegal_iff {op : Byte} {p : List Byte} :
    (∃ why, decodeFrame (op :: p) = .illegal why) ↔
      op ≠ 0x01 ∧ op ≠ 0x02 ∧ ¬ (op = 0x03 ∧ p = []) ∧ ¬ (op = 0x04 ∧ p = []) := by
  rw [decodeFrame_illegal_iff]
  constructor
  · intro h
    refine ⟨?_, ?_, ?_, ?_⟩
    · rintro rfl; exact h (.hash p) rfl
    · rintro rfl; exact h (.update p) rfl
    · rintro ⟨rfl, rfl⟩; exact h .digest rfl
    · rintro ⟨rfl, rfl⟩; exact h .status rfl
  · rintro ⟨hhash, hupdate, hdigest, hstatus⟩ c hc
    cases c with
    | hash => cases hc; exact hhash rfl
    | update => cases hc; exact hupdate rfl
    | digest => cases hc; exact hdigest ⟨rfl, rfl⟩
    | status => cases hc; exact hstatus ⟨rfl, rfl⟩

/-- Clauses (b) and (c) of R74: what is left of the first bytes without the legal frames. -/
theorem illegal_first_byte_iff (op : Byte) (p : List Byte) :
    (op ≠ 0x01 ∧ op ≠ 0x02 ∧ ¬ (op = 0x03 ∧ p = []) ∧ ¬ (op = 0x04 ∧ p = [])) ↔
      (op = 0x00 ∨ 0x05 ≤ op.toNat) ∨ (op = 0x03 ∨ op = 0x04) ∧ p ≠ [] := by
  by_cases hp : p = []
  · simp only [hp, and_true, ne_eq, not_true_eq_false, and_false, or_false]
    bv_omega
  · simp only [hp, and_true, ne_eq, not_false_eq_true, and_false]
    bv_omega

/-! ### ACCEPT of a frame in IDLE (R200) -/

theorem execAccept_of_frame (hp : s.phase = .idle) (hb : s.busy = false) (hc : s.cmd = f :: rest) :
    execAccept s = .next ({ s with cmd := rest }.dispatch (decodeFrame f)) := by
  simp [execAccept, hc, State.ready, hb, hp]

/-! ### The three code spaces (R75, R79, R80) -/

theorem decode_frame_encodeFrame (c : Command) :
    decode (.frame (encodeFrame c)) = .ok (commandInstr c) := by
  simp [decode]

theorem decode_encode {i : Instr} (h : i.wellFormed = true) : decode (encode i) = .ok i := by
  cases i with
  | hash p => exact decode_frame_encodeFrame (.hash p)
  | update p => exact decode_frame_encodeFrame (.update p)
  | digest => exact decode_frame_encodeFrame .digest
  | status => exact decode_frame_encodeFrame .status
  | accept | pad | seed | ldblk | ldw | expand | initv | round | chain | serialize | acceptHalt => rfl
  | detect => rfl
  | rev length =>
    have hlen : 1 ≤ length ∧ length ≤ 8 := by simpa [Instr.wellFormed] using h
    exact if_pos hlen
  | rotr x amount =>
    have hamount : amount ≤ 31 := by simpa [Instr.wellFormed] using h
    exact if_pos hamount
  | rotl x amount =>
    have hamount : amount ≤ 31 := by simpa [Instr.wellFormed] using h
    exact if_pos hamount

end Sys2Proof.Machine

namespace Sys2Proof.Proofs

open Sys2Proof Sys2Proof.Machine

/-- Settles O1, by the instruction: a command by its frame, a micro-operation by its phase code, a unit by
its select and its operand's domain. -/
theorem decodeOfEncodeIsIdentity : Obligations.DecodeOfEncodeIsIdentity :=
  fun _ hi => decode_encode hi

/-- Settles O2: the illegal frames are those that no command encodes to. -/
theorem frameDecodeAndEncode : Obligations.FrameDecodeAndEncode :=
  ⟨⟨_, rfl⟩, fun p => decodeFrame_encodeFrame (.hash p), fun p => decodeFrame_encodeFrame (.update p),
    decodeFrame_encodeFrame .digest, decodeFrame_encodeFrame .status,
    fun _ _ hhash hupdate hdigest hstatus =>
      decodeFrame_cons_illegal_iff.mpr ⟨hhash, hupdate, hdigest, hstatus⟩,
    decodeFrame_encodeFrame, fun _ _ => encodeFrame_of_decodeFrame⟩

/-- Settles O3: by the frame's first byte, and by the arm of ACCEPT for a frame that does not decode. -/
theorem illegalFramesAreTheListedOnes : Obligations.IllegalFramesAreTheListedOnes := by
  refine ⟨fun f => ?_, fun s f rest why hp hb hc hd => ?_⟩
  · cases f with
    | nil => simp [decodeFrame]
    | cons op p =>
      rw [decodeFrame_cons_illegal_iff, illegal_first_byte_iff]
      simp
  · have haccept := execAccept_of_frame hp hb hc
    rw [hd] at haccept
    exact haccept

/-- Settles O4: each code is a literal, and decoding computes. -/
theorem writtenOutCodesDecode : Obligations.WrittenOutCodesDecode := by
  unfold Obligations.WrittenOutCodesDecode
  decide

end Sys2Proof.Proofs
end

section
/-! PROOFS. One response per command (R77, R78): what each command's effect sends in IDLE, what HALT
answers, and the command level that takes the frame. -/

namespace Sys2Proof.Machine

open Sys2Proof

variable {s : State}

/-- The data of the OK response to a command that leads from `s` to `t`: the column of R77. -/
def State.okData (s t : State) : Command → List Byte
  | .hash _ => t.digest.toList
  | .update _ => []
  | .digest => t.digest.toList
  | .status => bigEndian 4 s.sr.toNat ++ bigEndian 8 s.mlen

/-- `t` is `s` with one response more, to a frame that decodes to `d`: the OK response of the command, or
the status byte of the fault recorded in `t`. -/
def State.Answers (s : State) (d : Decoded Command) (t : State) : Prop :=
  t.cmd = s.cmd
    ∧ ((∃ c, d = .ok c ∧ t.rsp = s.rsp ++ [okStatus :: s.okData t c])
      ∨ t.fault ≠ .none ∧ t.rsp = s.rsp ++ [[faultStatus t.fault]])

/-! ### What each answer sends -/

theorem State.raise_answers (d : Decoded Command) {c : FaultCode} (hc : c ≠ .none) :
    s.Answers d (s.raise c) :=
  ⟨rfl, .inr ⟨hc, rfl⟩⟩

theorem State.answerHalted_answers (d : Decoded Command) (hf : s.fault ≠ .none) :
    s.Answers d s.answerHalted :=
  ⟨rfl, .inr ⟨hf, rfl⟩⟩

theorem State.statusResponse_answers : s.Answers (.ok .status) (s.send s.statusResponse) :=
  ⟨rfl, .inl ⟨_, rfl, rfl⟩⟩

theorem State.hashEffect_answers (p : List Byte) : s.Answers (.ok (.hash p)) (s.hashEffect p) := by
  unfold State.hashEffect
  split
  · exact raise_answers _ (by decide)
  · exact ⟨rfl, .inl ⟨_, rfl, rfl⟩⟩

theorem State.updateEffect_answers (p : List Byte) : s.Answers (.ok (.update p)) (s.updateEffect p) := by
  unfold State.updateEffect
  split
  · exact raise_answers _ (by decide)
  · exact ⟨rfl, .inl ⟨_, rfl, rfl⟩⟩

theorem State.digestEffect_answers : s.Answers (.ok .digest) s.digestEffect := by
  unfold State.digestEffect
  split
  · exact ⟨rfl, .inl ⟨_, rfl, rfl⟩⟩
  · exact raise_answers _ (by decide)

/-! ### The command level in a state that accepts a frame -/

theorem State.accepting_of_not_computing (hs : s.Inv = true) (hc : s.phase.computing = false) :
    s.accepting = true := by
  obtain ⟨-, -, -, hbusy, -⟩ := s.inv_iff.mp hs
  simp [State.accepting, State.ready, hbusy, hc]

/-- In HALT a fault is recorded (R33). -/
theorem State.fault_ne_none_of_halt (hs : s.Inv = true) (hp : s.phase = .halt) : s.fault ≠ .none :=
  fun h => (State.fault_eq_none_iff hs).mp h hp

/-- A command other than STATUS answers in HALT, and in IDLE where its effect does. -/
theorem State.command_answers {c : Command} {effect : State → State} (hs : s.Inv = true)
    (hacc : s.accepting = true) (he : s.Answers (.ok c) (effect s)) :
    s.Answers (.ok c) (s.command c effect) := by
  unfold State.command
  rw [if_pos hacc]
  split
  case isTrue hp => exact answerHalted_answers _ (fault_ne_none_of_halt hs hp)
  case isFalse => exact he

theorem exec_command_answers (c : Command) (hs : s.Inv = true) (hacc : s.accepting = true) :
    ∃ t, exec (commandInstr c) s = .next t ∧ s.Answers (.ok c) t := by
  cases c with
  | hash p => exact ⟨_, rfl, State.command_answers hs hacc (State.hashEffect_answers p)⟩
  | update p => exact ⟨_, rfl, State.command_answers hs hacc (State.updateEffect_answers p)⟩
  | digest => exact ⟨_, rfl, State.command_answers hs hacc State.digestEffect_answers⟩
  | status =>
    refine ⟨_, rfl, ?_⟩
    rw [if_pos hacc]
    exact State.statusResponse_answers

theorem State.rejectFrame_answers (d : Decoded Command) (hs : s.Inv = true) :
    s.Answers d s.rejectFrame := by
  unfold State.rejectFrame
  split
  case isTrue hp => exact answerHalted_answers _ (fault_ne_none_of_halt hs hp)
  case isFalse => exact raise_answers _ (by decide)

theorem commandStep_answers {f : Frame} {rest : List Frame} (hs : s.Inv = true)
    (hp : s.phase.computing = false) (hc : s.cmd = f :: rest) :
    ∃ t, commandStep s = .next t ∧ { s with cmd := rest }.Answers (decodeFrame f) t := by
  have hacc : s.accepting = true := State.accepting_of_not_computing hs hp
  have hrest : { s with cmd := rest }.Inv = true := (s.dropFrame_inv rest).trans hs
  unfold commandStep
  simp only [hc, if_pos hacc]
  cases decodeFrame f with
  | ok c => exact exec_command_answers c hrest hacc
  | illegal why => exact ⟨_, rfl, State.rejectFrame_answers _ hrest⟩

/-! ### The tables of R77 and R78 -/

/-- The three fault responses of R78. -/
theorem faultStatus_cases {c : FaultCode} (h : c ≠ .none) :
    faultStatus c = 0x81 ∧ c = .illegal ∨ faultStatus c = 0x82 ∧ c = .noDigest
      ∨ faultStatus c = 0x83 ∧ c = .tooLong := by
  cases c with
  | none => exact absurd rfl h
  | illegal => exact .inl ⟨rfl, rfl⟩
  | noDigest => exact .inr (.inl ⟨rfl, rfl⟩)
  | tooLong => exact .inr (.inr ⟨rfl, rfl⟩)

@[simp] theorem bigEndian_length (n v : Nat) : (bigEndian n v).length = n := by
  simp [bigEndian]

end Sys2Proof.Machine

namespace Sys2Proof.Proofs

open Sys2Proof Sys2Proof.Machine

/-- Settles O42: the command level answers the frame it takes, by the command of an OK response or by the
fault code. -/
theorem oneResponsePerCommand : Obligations.OneResponsePerCommand := by
  intro s f rest hs hp hc
  obtain ⟨t, hstep, hcmd, ⟨c, hd, hrsp⟩ | ⟨hf, hrsp⟩⟩ := commandStep_answers hs hp hc
  · refine ⟨t, okStatus, _, hstep, hcmd, hrsp, .inl ⟨rfl, ?_⟩⟩
    cases c with
    | hash p => exact .inl ⟨p, hd, rfl, t.digest.length_toList⟩
    | update p => exact .inr (.inl ⟨p, hd, rfl⟩)
    | digest => exact .inr (.inr (.inl ⟨hd, rfl, t.digest.length_toList⟩))
    | status => exact .inr (.inr (.inr ⟨hd, by simp [State.okData], rfl⟩))
  · exact ⟨t, faultStatus t.fault, [], hstep, hcmd, hrsp, .inr ⟨hf, rfl, faultStatus_cases hf⟩⟩

end Sys2Proof.Proofs
end

section
/-! PROOFS. The bit-and-word utilities (40_bitword_utilities.md): the rotations as the library's, SHR and
ADD32 in numbers, the reversal of a prefix of LANE, and the units executed alone. -/

namespace Sys2Proof.Machine

open Sys2Proof

variable {s : State}

/-! ### ROTR and ROTL (R102, R103) -/

section Rotate

variable (x : Word) {n : Nat}

/-- Within its domain ROTR is the library's rotation. -/
theorem rotateRight_eq_bitVec (hn : n ≤ 31) : rotateRight x n = x.rotateRight n := by
  rw [BitVec.rotateRight_def, Nat.mod_eq_of_lt (by omega), rotateRight]

theorem rotateRight_getLsbD (hn : n ≤ 31) {i : Nat} (hi : i < 32) :
    (rotateRight x n).getLsbD i = x.getLsbD ((i + n) % 32) := by
  rw [rotateRight_eq_bitVec x hn, BitVec.getLsbD_rotateRight_of_lt (by omega)]
  by_cases hwrap : i < 32 - n
  · have hsrc : (i + n) % 32 = n + i := by omega
    simp [hwrap, hsrc]
  · have hsrc : (i + n) % 32 = i - (32 - n) := by omega
    simp [hwrap, hi, hsrc]

theorem word_div_two_pow_lt (hn : n ≤ 31) : x.toNat / 2 ^ n < 2 ^ (32 - n) := by
  have hpow : 2 ^ n * 2 ^ (32 - n) = 2 ^ 32 := pow_mul_pow_sub 2 (by omega)
  exact Nat.div_lt_of_lt_mul (hpow ▸ x.isLt)

/-- The low n bits of x become the high ones, so the two parts do not overlap. -/
theorem rotateRight_toNat (hn : n ≤ 31) :
    (rotateRight x n).toNat = x.toNat / 2 ^ n + x.toNat % 2 ^ n * 2 ^ (32 - n) := by
  have hpow : 2 ^ n * 2 ^ (32 - n) = 2 ^ 32 := pow_mul_pow_sub 2 (by omega)
  have hhigh : x.toNat <<< (32 - n) % 2 ^ 32 = (x.toNat % 2 ^ n) <<< (32 - n) := by
    rw [Nat.shiftLeft_eq, Nat.shiftLeft_eq, ← hpow, Nat.mul_mod_mul_right]
  rw [rotateRight, BitVec.toNat_or, BitVec.toNat_ushiftRight, BitVec.toNat_shiftLeft, hhigh,
    Nat.shiftRight_eq_div_pow, Nat.or_comm, ← Nat.shiftLeft_add_eq_or_of_lt (word_div_two_pow_lt x hn),
    Nat.shiftLeft_eq, Nat.add_comm]

theorem rotateRight_rotateRight {m : Nat} (hm : m ≤ 31) (hn : n ≤ 31) :
    rotateRight (rotateRight x m) n = rotateRight x ((m + n) % 32) := by
  apply BitVec.eq_of_getLsbD_eq
  intro i hi
  have hsrc : ((i + n) % 32 + m) % 32 = (i + (m + n) % 32) % 32 := by omega
  rw [rotateRight_getLsbD _ hn hi, rotateRight_getLsbD _ hm (by omega),
    rotateRight_getLsbD _ (by omega) hi, hsrc]

/-- A rotation to the left is the rotation to the right by the rest of the 32 bits. -/
theorem rotateLeft_eq_rotateRight (hn : n ≤ 31) : rotateLeft x n = rotateRight x ((32 - n) % 32) := by
  obtain rfl | hpos := Nat.eq_zero_or_pos n
  · simp [rotateLeft, rotateRight, BitVec.ushiftRight_eq_zero]
  · have hback : 32 - (32 - n) = n := by omega
    rw [Nat.mod_eq_of_lt (by omega), rotateLeft, rotateRight, hback, BitVec.or_comm]

theorem rotateLeft_getLsbD (hn : n ≤ 31) {i : Nat} (hi : i < 32) :
    (rotateLeft x n).getLsbD i = x.getLsbD ((i + 32 - n) % 32) := by
  have hsrc : (i + (32 - n) % 32) % 32 = (i + 32 - n) % 32 := by omega
  rw [rotateLeft_eq_rotateRight x hn, rotateRight_getLsbD _ (by omega) hi, hsrc]

theorem rotateLeft_toNat (hn : n ≤ 31) :
    (rotateLeft x n).toNat = x.toNat * 2 ^ n % 2 ^ 32 + x.toNat / 2 ^ (32 - n) := by
  rw [rotateLeft_eq_rotateRight x hn, rotateRight_toNat x (by omega)]
  obtain rfl | hpos := Nat.eq_zero_or_pos n
  · simp [Nat.mod_one, Nat.mod_eq_of_lt x.isLt, Nat.div_eq_of_lt x.isLt]
  · have hback : 32 - (32 - n) = n := by omega
    have hpow : 2 ^ (32 - n) * 2 ^ n = 2 ^ 32 := pow_sub_mul_pow 2 (by omega)
    rw [Nat.mod_eq_of_lt (by omega : 32 - n < 32), hback, ← hpow, Nat.mul_mod_mul_right, Nat.add_comm]

end Rotate

/-! ### SHR and ADD32 (R104, R105) -/

theorem shiftRight_toNat (x : Word) (n : Nat) : (shiftRight x n).toNat = x.toNat / 2 ^ n := by
  rw [shiftRight, BitVec.toNat_ushiftRight, Nat.shiftRight_eq_div_pow]

theorem shiftRight_toNat_lt (x : Word) {n : Nat} (hn : n ≤ 31) : (shiftRight x n).toNat < 2 ^ (32 - n) :=
  shiftRight_toNat x n ▸ word_div_two_pow_lt x hn

theorem add32_toNat (x y : Word) : (add32 x y).toNat = (x.toNat + y.toNat) % 2 ^ 32 :=
  BitVec.toNat_add x y

theorem add32_comm (x y : Word) : add32 x y = add32 y x := BitVec.add_comm x y

theorem add32_assoc (x y z : Word) : add32 (add32 x y) z = add32 x (add32 y z) := BitVec.add_assoc x y z

/-! ### LANE after REV and NORM32 (R101, R107) -/

/-- Vectors of one length have no element at the same indices, so only those in range need comparing. -/
theorem vector_getElem?_congr {α : Type} {n : Nat} {x y : Vector α n} {k : Nat}
    (h : ∀ hk : k < n, x[k] = y[k]) : x[k]? = y[k]? := by
  by_cases hk : k < n
  · rw [Vector.getElem?_eq_getElem hk, Vector.getElem?_eq_getElem hk, h hk]
  · rw [Vector.getElem?_eq_none (by omega), Vector.getElem?_eq_none (by omega)]

theorem reverseLane_getElem_lt {n : Nat} (h : n ≤ 8) (lane : Vector Byte 8) {k : Nat} (hk : k < n) :
    (reverseLane n h lane)[k] = lane[n - 1 - k] := by
  simp [reverseLane, hk]

theorem reverseLane_getElem_ge {n : Nat} (h : n ≤ 8) (lane : Vector Byte 8) {k : Nat} (hk : k < 8)
    (hnk : n ≤ k) : (reverseLane n h lane)[k] = lane[k] := by
  simp [reverseLane, Nat.not_lt.mpr hnk]

theorem reverseLane_reverseLane {n : Nat} (h : n ≤ 8) (lane : Vector Byte 8) :
    reverseLane n h (reverseLane n h lane) = lane := by
  apply vector_ext
  intro k hk
  by_cases hkn : k < n
  · have hmirror : n - 1 - (n - 1 - k) = k := by omega
    rw [reverseLane_getElem_lt h _ hkn, reverseLane_getElem_lt h _ (by omega)]
    simp [hmirror]
  · rw [reverseLane_getElem_ge h _ hk (by omega), reverseLane_getElem_ge h _ hk (by omega)]

theorem stage4_getElem_lt (b : Vector Byte 4) (lane : Vector Byte 8) {k : Nat} (hk : k < 4) :
    (stage4 b lane)[k] = b[k] := by
  simp [stage4, hk]

theorem stage4_getElem_ge (b : Vector Byte 4) (lane : Vector Byte 8) {k : Nat} (hk : k < 8) (h4k : 4 ≤ k) :
    (stage4 b lane)[k] = lane[k] := by
  simp [stage4, Nat.not_lt.mpr h4k]

theorem norm32Lane_getElem_lt (le : Bool) (b : Vector Byte 4) (lane : Vector Byte 8) {k : Nat} (hk : k < 4) :
    (norm32Lane le b lane)[k] = if le then b[3 - k] else b[k] := by
  cases le with
  | false => exact stage4_getElem_lt b lane hk
  | true => exact (reverseLane_getElem_lt (by decide) _ hk).trans (stage4_getElem_lt b lane (by omega))

theorem norm32Lane_getElem_ge (le : Bool) (b : Vector Byte 4) (lane : Vector Byte 8) {k : Nat} (hk : k < 8)
    (h4k : 4 ≤ k) : (norm32Lane le b lane)[k] = lane[k] := by
  cases le with
  | false => exact stage4_getElem_ge b lane hk h4k
  | true => exact (reverseLane_getElem_ge (by decide) _ hk h4k).trans (stage4_getElem_ge b lane hk h4k)

theorem toNat_append_byte {m : Nat} (x : BitVec m) (y : Byte) :
    (x ++ y).toNat = x.toNat * 2 ^ 8 + y.toNat := by
  rw [BitVec.toNat_append, ← Nat.shiftLeft_add_eq_or_of_lt y.isLt, Nat.shiftLeft_eq]

/-- The word NORM32 reads, as the sum of R107. -/
theorem norm32_toNat (le : Bool) (b : Vector Byte 4) (lane : Vector Byte 8) :
    (norm32 le b lane).toNat
      = b[0].toNat * 2 ^ 24 + b[1].toNat * 2 ^ 16 + b[2].toNat * 2 ^ 8 + b[3].toNat := by
  rw [norm32_eq_append, toNat_append_byte, toNat_append_byte, toNat_append_byte]
  omega

/-! ### The units executed alone (R100 to R103) -/

theorem exec_detect : exec .detect s = .next { s with le := s.params.platformLE } := rfl

theorem exec_rev {n : Nat} (h : n ≤ 8) :
    exec (.rev n) s = .next { s with lane := reverseLane n h s.lane } := dif_pos h

theorem exec_rotr (x : Word) {n : Nat} (hn : n ≤ 31) :
    exec (.rotr x n) s = .next { s with unitOut := rotateRight x n } := if_pos hn

theorem exec_rotl (x : Word) {n : Nat} (hn : n ≤ 31) :
    exec (.rotl x n) s = .next { s with unitOut := rotateLeft x n } := if_pos hn

theorem exec_rotr_refused (x : Word) {n : Nat} (hn : 32 ≤ n) :
    exec (.rotr x n) s = .refused .rotateAmount := if_neg (by omega)

theorem exec_rotl_refused (x : Word) {n : Nat} (hn : 32 ≤ n) :
    exec (.rotl x n) s = .refused .rotateAmount := if_neg (by omega)

end Sys2Proof.Machine

namespace Sys2Proof.Proofs

open Sys2Proof Sys2Proof.Machine

/-- Settles O6: the formula's sum is below 2^32, and a rotation is determined by where its bits come
from. -/
theorem rotateRightMovesBits : Obligations.RotateRightMovesBits := by
  intro x n hn
  refine ⟨?_, fun i hi => rotateRight_getLsbD x hn hi, fun m hm => rotateRight_rotateRight x hm hn⟩
  rw [← rotateRight_toNat x hn, Nat.mod_eq_of_lt (BitVec.isLt _)]

/-- Settles O7: everything follows from ROTL being a ROTR. -/
theorem rotateLeftMovesBits : Obligations.RotateLeftMovesBits := by
  intro x n hn
  refine ⟨?_, fun i hi => rotateLeft_getLsbD x hn hi, rotateLeft_eq_rotateRight x hn⟩
  rw [← rotateLeft_toNat x hn, Nat.mod_eq_of_lt (BitVec.isLt _)]

/-- Settles O8: the modulus of the inner sum is absorbed by that of the outer one. -/
theorem shiftAndAddAreArithmetic : Obligations.ShiftAndAddAreArithmetic := by
  refine ⟨fun x n hn => ⟨shiftRight_toNat x n, shiftRight_toNat_lt x hn⟩,
    fun x y z => ⟨add32_toNat x y, ?_, add32_assoc x y z, add32_comm x y⟩⟩
  rw [add32_toNat, add32_toNat, Nat.mod_add_mod]

/-- Settles O12, LANE byte by byte. -/
theorem normalizingLoadIsBigEndian : Obligations.NormalizingLoadIsBigEndian := by
  intro le b lane
  refine ⟨norm32_toNat le b lane, fun k hk => ?_,
    fun k hk => vector_getElem?_congr fun hk8 => norm32Lane_getElem_ge le b lane hk8 hk⟩
  rw [Vector.getElem?_eq_getElem (by omega), norm32Lane_getElem_lt le b lane hk]
  cases le with
  | false => exact (Vector.getElem?_eq_getElem hk).symm
  | true => exact (Vector.getElem?_eq_getElem (by omega : 3 - k < 4)).symm

/-- Settles O13, by the bytes of `enc64_getElem`. -/
theorem normalizingStoreIsBigEndian : Obligations.NormalizingStoreIsBigEndian := by
  intro le x lane k
  rw [Fin.getElem_fin, enc64_getElem le x lane k k.isLt, BitVec.toNat_ofNat]

/-- Settles O15: REV of the same length restores LANE by `reverseLane_reverseLane`. -/
theorem reverseReversesPrefix : Obligations.ReverseReversesPrefix := by
  intro n s _ hn
  refine ⟨_, exec_rev hn, rfl, fun k hk => ?_,
    fun k hk => vector_getElem?_congr fun hk8 => reverseLane_getElem_ge hn _ hk8 hk, ?_⟩
  · rw [Vector.getElem?_eq_getElem (by omega), Vector.getElem?_eq_getElem (by omega),
      reverseLane_getElem_lt hn _ hk]
  · rw [exec_rev hn, reverseLane_reverseLane]

/-- Settles O16: bit i of the word goes to bit (i + n) mod 32 of ROTL, which comes from bit i. -/
theorem rotateUnitsComplete : Obligations.RotateUnitsComplete := by
  intro x n s
  refine ⟨fun hn => ⟨_, exec_rotr x hn, rfl, fun i hi => rotateRight_getLsbD x hn hi⟩,
    fun hn => ⟨_, exec_rotl x hn, rfl, fun i hi => ?_⟩,
    fun hn => ⟨exec_rotr_refused x hn, exec_rotl_refused x hn⟩⟩
  have hsrc : ((i + n) % 32 + 32 - n) % 32 = i := by omega
  rw [rotateLeft_getLsbD x hn (by omega), hsrc]

/-- Settles O17: DETECT writes LE from a field it does not write. -/
theorem detectCopiesPlatformOrder : Obligations.DetectCopiesPlatformOrder :=
  fun _ => ⟨_, exec_detect, rfl, exec_detect⟩

end Sys2Proof.Proofs
end

section
/-! PROOFS. The preprocessor (41_preprocessing.md): the lengths PAD computes, PBYTE case by case and over
all the indices of the padded message, and the block LDBLK loads. -/

namespace Sys2Proof.Machine

open Sys2Proof

variable {s : State}

/-! ### The lengths (R120, R122) -/

/-- BITLEN holds the length in bits of a message below 2^61 bytes. -/
theorem bitlen_toNat_of_lt {n : Nat} (h : n < 2 ^ 61) : (BitVec.ofNat 64 (8 * n)).toNat = 8 * n := by
  rw [BitVec.toNat_ofNat, Nat.mod_eq_of_lt (by omega)]

theorem blockCount_le_of_room {n k : Nat} (h : n + 9 ≤ 64 * k) : blockCount n ≤ k := by
  unfold blockCount
  omega

/-- The padded message ends within 64 bytes of the least room it needs. -/
theorem blockCount_lt_room (n : Nat) : 64 * blockCount n < n + 9 + 64 := by
  unfold blockCount
  omega

/-! ### PBYTE by the cases of R121 -/

theorem State.pbyte_message (hw : s.msg.wf = true) {i : Nat} (hi : i < s.mlen) :
    s.pbyte i = s.msg.bytes[i]? := by
  rw [State.pbyte, if_pos hi, Memory.read_of_wf _ hw]

theorem State.pbyte_marker : s.pbyte s.mlen = some 0x80 := by
  rw [State.pbyte, if_neg (Nat.lt_irrefl _), if_pos rfl]

theorem State.pbyte_fill {i : Nat} (hlo : s.mlen < i) (hhi : i < 64 * s.nblk - 8) :
    s.pbyte i = some 0x00 := by
  rw [State.pbyte, if_neg (by omega), if_neg (by omega), if_pos hhi]

theorem State.pbyte_trailer (hroom : s.mlen + 9 ≤ 64 * s.nblk) {k : Nat} (hk : k < 8) :
    s.pbyte (64 * s.nblk - 8 + k) = some (BitVec.ofNat 8 (s.bitlen.toNat / 2 ^ (8 * (7 - k)))) := by
  rw [State.pbyte, if_neg (by omega), if_neg (by omega), if_neg (by omega), Nat.add_sub_cancel_left,
    Vector.getElem?_eq_getElem hk, enc64_getElem _ _ _ k hk]

/-! ### The parts of the padded message -/

theorem State.map_pbyte_message (hw : s.msg.wf = true) :
    (List.range s.mlen).map s.pbyte = s.msg.bytes.map some := by
  have hlen : s.msg.bytes.length = s.mlen := s.msg.bytes_length
  refine List.ext_getElem (by simp [hlen]) fun i hi hi' => ?_
  have hlt : i < s.mlen := by simpa using hi
  rw [List.getElem_map, List.getElem_map, List.getElem_range, State.pbyte_message hw hlt,
    List.getElem?_eq_getElem]

theorem State.map_pbyte_fill (z : Nat) (hz : s.mlen + 1 + z ≤ 64 * s.nblk - 8) :
    (List.range z).map (fun j => s.pbyte (s.mlen + 1 + j)) = (List.replicate z 0x00).map some := by
  have hfill : ∀ j ∈ List.range z, s.pbyte (s.mlen + 1 + j) = some 0x00 := by
    intro j hj
    have hjz := List.mem_range.mp hj
    exact State.pbyte_fill (by omega) (by omega)
  rw [List.map_congr_left hfill, List.map_const', List.length_range, List.map_replicate]

theorem State.map_pbyte_trailer (hroom : s.mlen + 9 ≤ 64 * s.nblk) :
    (List.range 8).map (fun k => s.pbyte (64 * s.nblk - 8 + k))
      = (bigEndian 8 s.bitlen.toNat).map some := by
  rw [bigEndian, List.map_map]
  exact List.map_congr_left fun k hk => State.pbyte_trailer hroom (List.mem_range.mp hk)

/-- Wherever the blocks leave room for them, message, marker, fill and trailer follow each other. -/
theorem State.map_pbyte_eq (hw : s.msg.wf = true) (hroom : s.mlen + 9 ≤ 64 * s.nblk) :
    (List.range (64 * s.nblk)).map s.pbyte
      = (s.msg.bytes ++ [0x80] ++ List.replicate (64 * s.nblk - 9 - s.mlen) 0x00
          ++ bigEndian 8 s.bitlen.toNat).map some := by
  have hbody : s.mlen + 1 + (64 * s.nblk - 9 - s.mlen) = 64 * s.nblk - 8 := by omega
  have hsplit : List.range (64 * s.nblk) = List.range s.mlen ++ [s.mlen]
      ++ (List.range (64 * s.nblk - 9 - s.mlen)).map (s.mlen + 1 + ·)
      ++ (List.range 8).map (64 * s.nblk - 8 + ·) := by
    rw [← List.range_succ, ← List.range_add, hbody, ← List.range_add, Nat.sub_add_cancel (by omega)]
  simp only [hsplit, List.map_append, List.map_map, Function.comp_def, List.map_singleton,
    State.map_pbyte_message hw, State.pbyte_marker, State.map_pbyte_fill _ hbody.le,
    State.map_pbyte_trailer hroom]

/-! ### The block LDBLK loads (R124) -/

theorem State.readBlock_getElem (hw : s.msg.wf = true) (hbi : s.bi < s.nblk) {b : Vector Byte 64}
    (hb : s.readBlock = some b) (k : Fin 64) : s.pbyte (64 * s.bi + k.val) = some b[k] := by
  cases (s.readBlock_eq hw hbi).symm.trans hb
  have hsome := s.pbyte_isSome hw (64 * s.bi + k.val) (by omega)
  obtain ⟨x, hx⟩ := Option.isSome_iff_exists.mp hsome
  simp [hx]

theorem State.laneAfterBlock_eq_or (s : State) :
    s.laneAfterBlock = s.lane ∨ s.laneAfterBlock = enc64 s.le s.bitlen s.lane :=
  (ite_eq_or_eq _ _ _).symm

end Sys2Proof.Machine

namespace Sys2Proof.Proofs

open Sys2Proof Sys2Proof.Machine

/-- Settles O18: NBLK is `blockCount`, which has the room and is the least count with it. -/
theorem padComputesLengths : Obligations.PadComputesLengths :=
  fun s hlt => ⟨_, execPad_eq_next_iff.mpr ⟨hlt, rfl⟩, rfl, bitlen_toNat_of_lt hlt, rfl,
    blockCount_room s.mlen, fun _ => blockCount_le_of_room⟩

/-- Settles O19: Z is within 0..63 by the room of the blocks, and 55 - n modulo 64 since 64 * NBLK is a
multiple of 64. -/
theorem fillByteCount : Obligations.FillByteCount := by
  intro n z
  have hlo : 0 ≤ z := by
    have := blockCount_room n
    omega
  have hhi : z ≤ 63 := by
    have := blockCount_lt_room n
    omega
  have hmod : z = (55 - (n : Int)) % 64 := by omega
  exact ⟨hlo, hhi, hmod, by omega, by omega⟩

/-- Settles O20: the blocks PAD counts leave the room. -/
theorem paddedMessageLayout : Obligations.PaddedMessageLayout :=
  fun s hw hnb => State.map_pbyte_eq hw (hnb ▸ blockCount_room s.mlen)

/-- Settles O21: in canonical form every byte of an existing block has a value. -/
theorem loadBlockLoadsPaddedBytes : Obligations.LoadBlockLoadsPaddedBytes := by
  intro s hw hbi
  have hread := s.readBlock_eq hw hbi
  exact ⟨_, execLdblk_eq_next_iff.mpr ⟨hbi, _, hread, rfl⟩, rfl, State.readBlock_getElem hw hbi hread,
    s.laneAfterBlock_eq_or⟩

end Sys2Proof.Proofs
end

section
/-! PROOFS. The message schedule (42_message_schedule.md): the bits of the mixing functions, the schedule's
two kinds of word in numbers, and what LDW and EXPAND write. -/

namespace Sys2Proof.Machine

open Sys2Proof

/-! ### The mixing functions (R142, R143, R163, R165) -/

/-- SHR gives a zero where the bit would come from above bit 31. -/
theorem shiftRight_getLsbD (x : Word) (n i : Nat) :
    (shiftRight x n).getLsbD i = (decide (i + n < 32) && x.getLsbD (i + n)) := by
  rw [shiftRight, BitVec.getLsbD_ushiftRight, Nat.add_comm n i]
  by_cases hin : i + n < 32
  · simp [hin]
  · simp [hin, BitVec.getLsbD_of_ge x (i + n) (by omega)]

/-- ssig0 and ssig1 have this form: two rotations and a shift. -/
theorem rotate_rotate_shift_getLsbD (x : Word) {m n i : Nat} (k : Nat) (hm : m ≤ 31) (hn : n ≤ 31)
    (hi : i < 32) :
    (rotateRight x m ^^^ rotateRight x n ^^^ shiftRight x k).getLsbD i
      = ((x.getLsbD ((i + m) % 32) ^^ x.getLsbD ((i + n) % 32)) ^^
        (decide (i + k < 32) && x.getLsbD (i + k))) := by
  rw [BitVec.getLsbD_xor, BitVec.getLsbD_xor, rotateRight_getLsbD x hm hi, rotateRight_getLsbD x hn hi,
    shiftRight_getLsbD]

/-- bsig0 and bsig1 have this form: three rotations. -/
theorem rotate_rotate_rotate_getLsbD (x : Word) {m n k i : Nat} (hm : m ≤ 31) (hn : n ≤ 31) (hk : k ≤ 31)
    (hi : i < 32) :
    (rotateRight x m ^^^ rotateRight x n ^^^ rotateRight x k).getLsbD i
      = ((x.getLsbD ((i + m) % 32) ^^ x.getLsbD ((i + n) % 32)) ^^ x.getLsbD ((i + k) % 32)) := by
  rw [BitVec.getLsbD_xor, BitVec.getLsbD_xor, rotateRight_getLsbD x hm hi, rotateRight_getLsbD x hn hi,
    rotateRight_getLsbD x hk hi]

/-! ### The words of the schedule in numbers (R140, R141) -/

theorem blockWord_toNat (b : Vector Byte 64) {t : Nat} (h : t ≤ 15) :
    (blockWord b t h).toNat
      = b[4 * t].toNat * 2 ^ 24 + b[4 * t + 1].toNat * 2 ^ 16 + b[4 * t + 2].toNat * 2 ^ 8
        + b[4 * t + 3].toNat := by
  rw [blockWord, toNat_append_byte, toNat_append_byte, toNat_append_byte]
  omega

/-- The moduli of the inner sums are absorbed by that of the outermost one. -/
theorem expandWord_toNat (w16 w15 w7 w2 : Word) :
    (expandWord w16 w15 w7 w2).toNat
      = (w16.toNat + (ssig0 w15).toNat + w7.toNat + (ssig1 w2).toNat) % 2 ^ 32 := by
  rw [expandWord, add32_toNat, add32_toNat, add32_toNat]
  omega

theorem blockBytes_getElem? (blk : Vector Byte 64) {t k : Nat} (h : t ≤ 15) (hk : k < 4) :
    (blockBytes blk t h)[k]? = blk[4 * t + k]? := by
  rw [Vector.getElem?_eq_getElem hk, Vector.getElem?_eq_getElem (by omega)]
  simp [blockBytes]

end Sys2Proof.Machine

namespace Sys2Proof.Proofs

open Sys2Proof Sys2Proof.Machine

/-- Settles O9: each mixing function is one of the two forms, with its own amounts. -/
theorem mixingFunctionsBitByBit : Obligations.MixingFunctionsBitByBit := by
  intro x i hi
  exact ⟨rotate_rotate_shift_getLsbD x 3 (by decide) (by decide) hi,
    rotate_rotate_shift_getLsbD x 10 (by decide) (by decide) hi,
    rotate_rotate_rotate_getLsbD x (by decide) (by decide) (by decide) hi,
    rotate_rotate_rotate_getLsbD x (by decide) (by decide) (by decide) hi⟩

/-- Settles O23: NORM32 of the four bytes is the block's word, and LANE is as O12 says NORM32 leaves it. -/
theorem loadWordWritesSchedule : Obligations.LoadWordWritesSchedule := by
  intro s h
  obtain ⟨-, hstaged, hkept⟩ := normalizingLoadIsBigEndian s.le (blockBytes s.blk s.t.val h) s.lane
  refine ⟨_, execLdw_eq_next_iff.mpr ⟨h, rfl⟩, rfl, ?_,
    fun j hj => Vector.getElem?_set_ne (by omega) hj.symm, fun k hk => ?_, hkept⟩
  · rw [Vector.getElem_set_self, norm32_blockBytes, blockWord_toNat]
  · exact (hstaged k hk).trans (blockBytes_getElem? s.blk h (by split <;> omega))

/-- Settles O24: the word written is the sum of `expandWord_toNat`. -/
theorem expandWritesSchedule : Obligations.ExpandWritesSchedule := by
  intro s hlo hhi
  refine ⟨_, execExpand_eq_next_iff.mpr ⟨⟨hlo, hhi⟩, rfl⟩, rfl, ?_,
    fun j hj => Vector.getElem?_set_ne (by omega) hj.symm⟩
  rw [Vector.getElem_set_self, expandWord_toNat]

/-- Settles O25: a loaded word is the block's, an expanded one the sum of `expandWord_toNat`. -/
theorem scheduleClosedForm : Obligations.ScheduleClosedForm := by
  intro b i h
  refine ⟨fun hlo => ?_, fun hhi => ?_⟩
  · rw [schedule_getElem_load b hlo, blockWord_toNat]
  · rw [schedule_getElem_expand b hhi h, expandWord_toNat]

end Sys2Proof.Proofs
end

section
/-! PROOFS. The compression engine (43_compression.md): Ch and Maj bit by bit, what SEED, INITV, ROUND and
CHAIN write, and the run of one block from LDBLK to CHAIN. -/

namespace Sys2Proof.Machine

open Sys2Proof

variable {s t u : State}

/-! ### Ch, Maj and the sums (R164, R166, R162, R167) -/

theorem ch_getLsbD (x y z : Word) {i : Nat} (hi : i < 32) :
    (ch x y z).getLsbD i = if x.getLsbD i then y.getLsbD i else z.getLsbD i := by
  rw [ch, BitVec.getLsbD_xor, BitVec.getLsbD_and, BitVec.getLsbD_and, BitVec.getLsbD_not]
  cases x.getLsbD i <;> simp [hi]

theorem maj_getLsbD (x y z : Word) (i : Nat) :
    (maj x y z).getLsbD i
      = decide (2 ≤ (x.getLsbD i).toNat + (y.getLsbD i).toNat + (z.getLsbD i).toNat) := by
  rw [maj, BitVec.getLsbD_xor, BitVec.getLsbD_xor, BitVec.getLsbD_and, BitVec.getLsbD_and,
    BitVec.getLsbD_and]
  generalize x.getLsbD i = a, y.getLsbD i = b, z.getLsbD i = c
  revert a b c
  decide

/-- A sum over the naturals, reduced once, is the sum reduced at every addition. -/
theorem ofNat_add_eq_add32 (m n : Nat) :
    BitVec.ofNat 32 (m + n) = add32 (BitVec.ofNat 32 m) (BitVec.ofNat 32 n) :=
  BitVec.ofNat_add m n

theorem addWords_getElem (x y : Vector Word 8) (i : Fin 8) : (addWords x y)[i] = add32 x[i] y[i] := by
  fin_cases i <;> rfl

/-! ### Runs that count T (R206) -/

/-- A run of steps that each keep `P` and advance T brings T to its bound. -/
theorem runSteps_countT {P : State → Prop} {b : Nat}
    (hstep : ∀ u, P u → u.t.val < b → ∃ t, step u = .next t ∧ P t ∧ t.t.val = u.t.val + 1)
    (n : Nat) (hu : P u) (hn : u.t.val + n = b) :
    ∃ t, runSteps n u = .next t ∧ P t ∧ t.t.val = b := by
  induction n generalizing u with
  | zero => exact ⟨u, rfl, hu, hn⟩
  | succ n ih =>
    obtain ⟨t, hut, ht, htt⟩ := hstep u hu (by omega)
    obtain ⟨r, htr, hr⟩ := ih ht (by omega)
    exact ⟨r, by rw [runSteps, hut]; exact htr, hr⟩

/-! ### Inside one block -/

/-- `u` works on block BI of `s`: the block is loaded, and beside it only V, W, LANE, T and PHASE may
differ from `s`. -/
def State.InBlock (s u : State) : Prop :=
  ∃ v w lane t phase, u = { s with
    v := v, w := w, blk := messageBlock s.msg.bytes s.bi, lane := lane, t := t, phase := phase }

theorem State.InBlock.update (hu : s.InBlock u) (v : Vector Word 8) (w : Vector Word 64)
    (lane : Vector Byte 8) (t : Fin 65) (phase : Phase) :
    s.InBlock { u with v := v, w := w, lane := lane, t := t, phase := phase } := by
  obtain ⟨_, _, _, _, _, rfl⟩ := hu
  exact ⟨v, w, lane, t, phase, rfl⟩

/-- The phase in which word T of the schedule is written, and INITV once all 64 are. -/
def schedulePhase (t : Nat) : Phase := if t < 16 then .ldw else if t < 64 then .expand else .initv

theorem schedulePhase_after_ldw {k : Nat} (h : k < 16) :
    (if k + 1 = 16 then .expand else .ldw) = schedulePhase (k + 1) := by
  split_ifs with hlast
  · rw [hlast]
    rfl
  · rw [schedulePhase, if_pos (by omega)]

theorem schedulePhase_after_expand {k : Nat} (hlo : ¬ k < 16) (hhi : k < 64) :
    (if k + 1 = 64 then .initv else .expand) = schedulePhase (k + 1) := by
  split_ifs with hlast
  · rw [hlast]
    rfl
  · rw [schedulePhase, if_neg (by omega), if_pos (by omega)]

/-- Between LDBLK and INITV: the first T words of the block's schedule are written (R140, R141). -/
def State.Scheduling (s u : State) : Prop :=
  s.InBlock u ∧ u.scheduled ∧ u.phase = schedulePhase u.t.val

/-- Between INITV and CHAIN: T rounds are done on the block's schedule (R162). -/
def State.Rounding (s u : State) : Prop :=
  s.InBlock u ∧ u.w = schedule u.blk ∧ u.roundsDone
    ∧ u.phase = if u.t.val = 64 then .chain else .round

/-- LDBLK starts the schedule of the block. -/
theorem step_scheduling_zero (hs : s.Inv = true) (hp : s.phase = .ldblk) :
    ∃ u, step s = .next u ∧ s.Scheduling u ∧ u.t.val = 0 := by
  obtain ⟨u, hu, hblk⟩ := execLdblk_blk hs hp
  obtain ⟨-, b, -, rfl⟩ := execLdblk_eq_next_iff.mp hu
  obtain rfl : b = messageBlock s.msg.bytes s.bi := hblk
  exact ⟨_, (step_ldblk hp).trans hu,
    ⟨⟨_, _, _, _, _, rfl⟩, fun _ hi => absurd hi (Nat.not_lt_zero _), rfl⟩, rfl⟩

/-- LDW and EXPAND write the next word of the schedule. -/
theorem State.Scheduling.step (hu : s.Scheduling u) (ht : u.t.val < 64) :
    ∃ t, step u = .next t ∧ s.Scheduling t ∧ t.t.val = u.t.val + 1 := by
  obtain ⟨hblock, hsched, hphase⟩ := hu
  by_cases hload : u.t.val < 16
  · have hp : u.phase = .ldw := by rw [hphase, schedulePhase, if_pos hload]
    have h := execLdw_eq_next_iff.mpr ⟨Nat.le_of_lt_succ hload, rfl⟩
    exact ⟨_, (step_ldw hp).trans h,
      ⟨hblock.update .., execLdw_scheduled hsched h, schedulePhase_after_ldw hload⟩, rfl⟩
  · have hp : u.phase = .expand := by rw [hphase, schedulePhase, if_neg hload, if_pos ht]
    have h := execExpand_eq_next_iff.mpr ⟨⟨Nat.le_of_not_lt hload, Nat.le_of_lt_succ ht⟩, rfl⟩
    exact ⟨_, (step_expand hp).trans h,
      ⟨hblock.update .., execExpand_scheduled hsched h, schedulePhase_after_expand hload ht⟩, rfl⟩

/-- INITV starts the rounds on the finished schedule. -/
theorem State.Scheduling.step_rounding_zero (hu : s.Scheduling u) (ht : u.t.val = 64) :
    ∃ t, Machine.step u = .next t ∧ s.Rounding t ∧ t.t.val = 0 := by
  obtain ⟨hblock, hsched, hphase⟩ := hu
  have hp : u.phase = .initv := by rw [hphase, ht]; rfl
  exact ⟨_, step_initv hp, ⟨hblock.update .., hsched.eq_schedule ht, rfl, rfl⟩, rfl⟩

/-- ROUND does one more round. -/
theorem State.Rounding.step (hu : s.Rounding u) (ht : u.t.val < 64) :
    ∃ t, step u = .next t ∧ s.Rounding t ∧ t.t.val = u.t.val + 1 := by
  obtain ⟨hblock, hw, hv, hphase⟩ := hu
  have hp : u.phase = .round := by rw [hphase, if_neg ht.ne]
  have h := execRound_eq_next_iff.mpr ⟨Nat.le_of_lt_succ ht, rfl⟩
  exact ⟨_, (step_round hp).trans h, ⟨hblock.update .., hw, execRound_roundsDone hw hv h, rfl⟩, rfl⟩

/-- CHAIN after the 64 rounds adds the block's compression into H and goes to the next block. -/
theorem State.Rounding.step_chain (hu : s.Rounding u) (ht : u.t.val = 64) :
    ∃ t, Machine.step u = .next t
      ∧ t.h = compress s.h (messageBlock s.msg.bytes s.bi)
      ∧ t = { s with
          h := t.h, v := t.v, w := t.w, blk := t.blk, lane := t.lane, t := 64, bi := s.bi + 1,
          phase := if s.bi + 1 = s.nblk then .serialize else .ldblk } := by
  obtain ⟨⟨v, w, lane, k, phase, rfl⟩, -, hv, hphase⟩ := hu
  obtain rfl : k = 64 := Fin.ext ht
  exact ⟨_, Machine.step_chain hphase, congrArg (addWords s.h) hv, rfl⟩

end Sys2Proof.Machine

namespace Sys2Proof.Proofs

open Sys2Proof Sys2Proof.Machine

/-- Settles O30: LDBLK, 64 words of the schedule, INITV, 64 rounds, CHAIN. -/
theorem blockStepsCompress : Obligations.BlockStepsCompress := by
  intro s hs hp
  obtain ⟨u₁, h₁, hu₁, ht₁⟩ := step_scheduling_zero hs hp
  obtain ⟨u₂, h₂, hu₂, ht₂⟩ := runSteps_countT (fun _ h => h.step) 64 hu₁ (by omega)
  obtain ⟨u₃, h₃, hu₃, ht₃⟩ := hu₂.step_rounding_zero ht₂
  obtain ⟨u₄, h₄, hu₄, ht₄⟩ := runSteps_countT (fun _ h => h.step) 64 hu₃ (by omega)
  obtain ⟨t, h₅, ht⟩ := hu₄.step_chain ht₄
  have hschedule : runSteps (1 + 64) s = .next u₂ := runSteps_trans (runSteps_one h₁) h₂
  have hrounds : runSteps (1 + 64) u₂ = .next u₄ := runSteps_trans (runSteps_one h₃) h₄
  exact ⟨t, runSteps_trans (runSteps_trans hschedule hrounds) (runSteps_one h₅), ht⟩

/-- Settles O10, by `ch_getLsbD` and `maj_getLsbD`. -/
theorem chooseAndMajorityBitByBit : Obligations.ChooseAndMajorityBitByBit :=
  fun x y z i hi => ⟨ch_getLsbD x y z hi, maj_getLsbD x y z i⟩

/-- Settles O28: reduced sum by reduced sum, the words are those of `roundStep`. -/
theorem roundUpdatesWorkingVariables : Obligations.RoundUpdatesWorkingVariables := by
  intro s h temp1 temp2
  refine execRound_eq_next_iff.mpr ⟨h, ?_⟩
  simp only [temp1, temp2, ofNat_add_eq_add32, BitVec.ofNat_toNat, BitVec.setWidth_eq]
  rfl

/-- Settles O29: CHAIN adds word by word. -/
theorem chainAddsIntoWorkingState : Obligations.ChainAddsIntoWorkingState := by
  intro s
  refine ⟨_, execChain_eq_next_iff.mpr rfl, rfl, fun i => ?_⟩
  rw [addWords_getElem, add32_toNat]

/-- Settles O27: both are the definitions of SEED and INITV, with the table of R25 written out. -/
theorem seedAndInitLoadEightWords : Obligations.SeedAndInitLoadEightWords :=
  fun _ => ⟨rfl, rfl⟩

end Sys2Proof.Proofs
end

section
/-! PROOFS. The digest serializer (44_digest_finalization.md): the characters as hexadecimal digits, the
eight words read back from them, what SERIALIZE answers, and that no other step writes DIGEST. -/

namespace Sys2Proof.Machine

open Sys2Proof

variable {s t : State}

/-! ### HEXCHAR (R192) -/

theorem hexChar_toNat (d : BitVec 4) :
    (hexChar d).toNat = if d.toNat ≤ 9 then 0x30 + d.toNat else 0x61 + (d.toNat - 10) := by
  have hd := d.isLt
  unfold hexChar
  split <;> rw [BitVec.toNat_ofNat, Nat.mod_eq_of_lt (by omega)]

/-- The digits 0 to 9 and the letters a to f do not overlap, and each range is in order. -/
theorem hexChar_injective : Function.Injective hexChar := by
  intro d e h
  have hchars := congrArg BitVec.toNat h
  rw [hexChar_toNat, hexChar_toNat] at hchars
  apply BitVec.eq_of_toNat_eq
  split_ifs at hchars <;> omega

/-! ### HEX8 (R191) -/

/-- The nibble that character k renders, as a number. -/
theorem extractLsb'_four_toNat (x : Word) (i : Nat) : (x.extractLsb' i 4).toNat = x.toNat / 2 ^ i % 16 := by
  rw [BitVec.extractLsb'_toNat, Nat.shiftRight_eq_div_pow]

/-- Bit i of a word stands in the nibble of character 7 - i / 4. -/
theorem getLsbD_eq_nibble (x : Word) {i : Nat} (hi : i < 32) :
    x.getLsbD i = (x.extractLsb' (28 - 4 * (7 - i / 4)) 4).getLsbD (i % 4) := by
  have hpos : 28 - 4 * (7 - i / 4) + i % 4 = i := by omega
  rw [BitVec.getLsbD_extractLsb', hpos, decide_eq_true (Nat.mod_lt i (by decide)), Bool.true_and]

/-- The eight characters of a word determine it. -/
theorem eq_of_hexDigit_eq {x y : Word} (h : ∀ k < 8, hexDigit x k = hexDigit y k) : x = y := by
  apply BitVec.eq_of_getLsbD_eq
  intro i hi
  have hnibble := hexChar_injective (h (7 - i / 4) (by omega))
  rw [getLsbD_eq_nibble x hi, getLsbD_eq_nibble y hi, hnibble]

/-! ### The 64 characters (R190) -/

theorem hexDigest_getElem (h : Vector Word 8) {i k : Nat} (hi : i < 8) (hk : k < 8) :
    (hexDigest h)[8 * i + k]'(by omega) = hexDigit h[i] k := by
  have hword : (8 * i + k) / 8 = i := by omega
  have hchar : (8 * i + k) % 8 = k := by omega
  simp only [hexDigest, tabulate_getElem, hword, hchar]

/-- The digest determines the Working State it renders (R195). -/
theorem hexDigest_injective : Function.Injective hexDigest := by
  intro h h' heq
  refine vector_ext fun i hi => eq_of_hexDigit_eq fun k hk => ?_
  rw [← hexDigest_getElem h hi hk, ← hexDigest_getElem h' hi hk, heq]

/-! ### Who writes DIGEST (R194) -/

/-- The steps from PAD to CHAIN write the hidden registers and PHASE, and nothing the host can see but
PHASE. -/
theorem step_computing_frame (hc : s.phase.computing = true) (hp : s.phase ≠ .serialize)
    (h : step s = .next t) :
    t = { s with
      h := t.h, v := t.v, w := t.w, bitlen := t.bitlen, nblk := t.nblk, bi := t.bi, t := t.t,
      phase := t.phase, blk := t.blk, lane := t.lane } := by
  cases hps : s.phase with
  | idle => rw [hps] at hc; cases hc
  | pad =>
    obtain ⟨-, rfl⟩ := execPad_eq_next_iff.mp (step_pad hps ▸ h)
    rfl
  | seed =>
    obtain rfl := execSeed_eq_next_iff.mp (step_seed hps ▸ h)
    rfl
  | ldblk =>
    obtain ⟨-, b, -, rfl⟩ := execLdblk_eq_next_iff.mp (step_ldblk hps ▸ h)
    rfl
  | ldw =>
    obtain ⟨-, rfl⟩ := execLdw_eq_next_iff.mp (step_ldw hps ▸ h)
    rfl
  | expand =>
    obtain ⟨-, rfl⟩ := execExpand_eq_next_iff.mp (step_expand hps ▸ h)
    rfl
  | initv =>
    obtain rfl := execInitv_eq_next_iff.mp (step_initv hps ▸ h)
    rfl
  | round =>
    obtain ⟨-, rfl⟩ := execRound_eq_next_iff.mp (step_round hps ▸ h)
    rfl
  | chain =>
    obtain rfl := execChain_eq_next_iff.mp (step_chain hps ▸ h)
    rfl
  | serialize => exact absurd hps hp
  | halt => rw [hps] at hc; cases hc

/-- A frame dispatched in IDLE leaves DIGEST alone: HASH and UPDATE only start. -/
theorem State.dispatch_digest (s : State) (d : Decoded Command) : (s.dispatch d).digest = s.digest := by
  obtain ⟨c, -, h⟩ | ⟨p, -, -, h⟩ | ⟨p, -, -, h⟩ | ⟨f, h⟩ := s.dispatch_cases d <;> rw [h]
  · exact s.raise_digest c
  · exact s.startHash_digest p
  · exact s.startUpdate_digest p
  · exact s.send_digest f

theorem execAccept_digest (hp : s.phase = .idle) (h : execAccept s = .next t) : t.digest = s.digest := by
  obtain hw | ⟨f, rest, -, -, hd⟩ := execAccept_idle hp
  · cases hw.symm.trans h
    rfl
  · cases hd.symm.trans h
    exact State.dispatch_digest { s with cmd := rest } (decodeFrame f)

theorem execAcceptHalt_digest (h : execAcceptHalt s = .next t) : t.digest = s.digest := by
  obtain hw | ⟨f, rest, -, -, -, hd⟩ := execAcceptHalt_cases s
  · cases hw.symm.trans h
    rfl
  · cases hd.symm.trans h
    obtain ⟨r, hr⟩ := State.dispatchHalted_cases { s with cmd := rest } (decodeFrame f)
    rw [hr, State.send_digest]

/-- ACCEPT keeps DIGEST in either form, and the steps from PAD to CHAIN do not reach it. -/
theorem step_digest (hp : s.phase ≠ .serialize) (h : step s = .next t) : t.digest = s.digest := by
  cases hc : s.phase.computing with
  | true => rw [step_computing_frame hc hp h]
  | false =>
    obtain hidle | hhalt := s.phase.computing_eq_false_iff.mp hc
    · exact execAccept_digest hidle (step_idle hidle ▸ h)
    · exact execAcceptHalt_digest (step_halt hhalt ▸ h)

theorem State.digestEffect_digest (s : State) : s.digestEffect.digest = s.digest := by
  unfold State.digestEffect
  split
  · exact s.send_digest _
  · exact s.raise_digest _

/-- A command other than STATUS writes DIGEST only where its effect does. -/
theorem State.command_digest (c : Command) {effect : State → State}
    (he : (effect s).digest = s.digest) : (s.command c effect).digest = s.digest := by
  unfold State.command
  split_ifs
  · exact s.answerHalted_digest
  · exact he
  · exact s.hold_digest _

theorem execStatus_digest (h : execStatus s = .next t) : t.digest = s.digest := by
  cases h
  split
  · exact s.send_digest _
  · exact s.hold_digest _

end Sys2Proof.Machine

namespace Sys2Proof.Proofs

open Sys2Proof Sys2Proof.Machine

/-- Settles O31: character 8*i + k is HEXCHAR of the k-th nibble of word i. -/
theorem digestCharactersAreHexDigits : Obligations.DigestCharactersAreHexDigits := by
  intro h i k d
  rw [hexDigest_getElem h i.isLt k.isLt, hexDigit, hexChar_toNat, extractLsb'_four_toNat]
  rfl

/-- Settles O32: HEXCHAR is injective, and the nibbles of a word determine its bits. -/
theorem digestDeterminesWorkingState : Obligations.DigestDeterminesWorkingState :=
  fun _ _ heq => hexDigest_injective heq

/-- Settles O33: the next state is that of `execSerialize_eq_next_iff`, its characters are those of
`hexDigest_getElem`. -/
theorem serializeProducesDigest : Obligations.SerializeProducesDigest := by
  intro s
  refine ⟨_, execSerialize_eq_next_iff.mpr rfl, rfl, fun i k => ?_, rfl⟩
  rw [Vector.getElem?_eq_getElem (by omega), hexDigest_getElem s.h i.isLt k.isLt]
  rfl

/-- Settles O58, by the phase the step starts in and by what each of the two commands can answer. -/
theorem digestWrittenOnlyBySerialize : Obligations.DigestWrittenOnlyBySerialize := by
  refine ⟨fun s t hp h => step_digest hp h, fun s t => ⟨fun h => ?_, execStatus_digest⟩⟩
  cases h
  exact State.command_digest .digest s.digestEffect_digest

end Sys2Proof.Proofs
end

section
/-! PROOFS. The commands (R200 to R205): what ACCEPT does with each frame in IDLE and in HALT, what each command
does in IDLE, and that the two levels agree where no computation starts (R207). -/

namespace Sys2Proof.Machine

open Sys2Proof

variable {s : State} {f : Frame} {rest : List Frame} {p : List Byte}

/-! ### The phase codes (R29, R79) -/

/-- The code of every phase selects a micro-operation. -/
theorem decode_phase_code (ph : Phase) : ∃ i, decode (.phase ph.code) = .ok i := by
  cases ph <;> exact ⟨_, rfl⟩

theorem step_eq_exec {i : Instr} (h : decode (.phase s.phase.code) = .ok i) : step s = exec i s := by
  rw [step, h]

/-! ### The length checks (R244) -/

theorem State.hashTooLong_iff : s.hashTooLong p = true ↔ s.params.maxBytes.val < p.length :=
  decide_eq_true_iff

theorem State.updateTooLong_iff : s.updateTooLong p = true ↔ s.params.maxBytes.val < s.mlen + p.length :=
  decide_eq_true_iff

/-! ### ACCEPT in IDLE, command by command (R200) -/

theorem State.dispatch_hash_of_le (h : p.length ≤ s.params.maxBytes.val) :
    s.dispatch (.ok (.hash p)) = s.startHash p :=
  if_neg (mt hashTooLong_iff.mp (Nat.not_lt.mpr h))

theorem State.dispatch_hash_of_lt (h : s.params.maxBytes.val < p.length) :
    s.dispatch (.ok (.hash p)) = s.raise .tooLong :=
  if_pos (hashTooLong_iff.mpr h)

theorem State.dispatch_update_of_le (h : s.mlen + p.length ≤ s.params.maxBytes.val) :
    s.dispatch (.ok (.update p)) = s.startUpdate p :=
  if_neg (mt updateTooLong_iff.mp (Nat.not_lt.mpr h))

theorem State.dispatch_update_of_lt (h : s.params.maxBytes.val < s.mlen + p.length) :
    s.dispatch (.ok (.update p)) = s.raise .tooLong :=
  if_pos (updateTooLong_iff.mpr h)

theorem State.digestEffect_of_dvalid (h : s.dvalid = true) : s.digestEffect = s.send s.digestResponse :=
  if_pos h

theorem State.digestEffect_of_not_dvalid (h : s.dvalid = false) : s.digestEffect = s.raise .noDigest :=
  if_neg (by simp [h])

/-! ### ACCEPT in HALT, and where it is not enabled -/

/-- In HALT a frame is answered by the status for STATUS, and by the recorded fault otherwise (R248). -/
theorem State.dispatchHalted_eq (d : Decoded Command) :
    s.dispatchHalted d
      = s.send (if d = .ok .status then s.statusResponse else [faultStatus s.fault]) := by
  match d with
  | .illegal _ => rfl
  | .ok (.hash _) => rfl
  | .ok (.update _) => rfl
  | .ok .digest => rfl
  | .ok .status => rfl

theorem execAcceptHalt_of_frame (hp : s.phase = .halt) (hb : s.busy = false) (hc : s.cmd = f :: rest) :
    execAcceptHalt s = .next ({ s with cmd := rest }.dispatchHalted (decodeFrame f)) := by
  simp [execAcceptHalt, hc, State.ready, hb, hp]

/-- ACCEPT answers the same state while BUSY = 1 and in PAD to SERIALIZE (log entry 11). -/
theorem execAccept_of_busy (h : s.busy = true ∨ s.phase.computing = true) : execAccept s = .next s := by
  by_cases hp : s.phase = .idle
  · obtain hw | ⟨-, -, -, hb, -⟩ := execAccept_idle hp
    · exact hw
    · simp [hb, hp, Phase.computing] at h
  · rw [execAccept_of_not_idle hp]
    obtain hw | ⟨-, -, -, hb, hh, -⟩ := execAcceptHalt_cases s
    · exact hw
    · simp [hb, hh, Phase.computing] at h

/-! ### The commands executed in IDLE (R201 to R204) -/

theorem State.hashEffect_of_le (h : p.length ≤ s.params.maxBytes.val) :
    s.hashEffect p
      = ((s.startHash p).runCommand p).send ((s.startHash p).runCommand p).digestResponse :=
  if_neg (mt hashTooLong_iff.mp (Nat.not_lt.mpr h))

theorem State.hashEffect_of_lt (h : s.params.maxBytes.val < p.length) :
    s.hashEffect p = s.raise .tooLong :=
  if_pos (hashTooLong_iff.mpr h)

theorem State.updateEffect_of_le (h : s.mlen + p.length ≤ s.params.maxBytes.val) :
    s.updateEffect p = ((s.startUpdate p).runCommand (s.msg.bytes ++ p)).send [okStatus] :=
  if_neg (mt updateTooLong_iff.mp (Nat.not_lt.mpr h))

theorem State.updateEffect_of_lt (h : s.params.maxBytes.val < s.mlen + p.length) :
    s.updateEffect p = s.raise .tooLong :=
  if_pos (updateTooLong_iff.mpr h)

section Idle

variable (hp : s.phase = .idle) (hb : s.busy = false)
include hp hb

theorem exec_hash_idle (p : List Byte) : exec (.hash p) s = .next (s.hashEffect p) :=
  congrArg _ (State.command_idle _ _ hp hb)

theorem exec_update_idle (p : List Byte) : exec (.update p) s = .next (s.updateEffect p) :=
  congrArg _ (State.command_idle _ _ hp hb)

theorem exec_digest_idle : exec .digest s = .next s.digestEffect :=
  congrArg _ (State.command_idle _ _ hp hb)

end Idle

/-- BUSY = 0 and PHASE outside PAD to SERIALIZE (R36, R200). -/
theorem State.accepting_iff : s.accepting = true ↔ s.busy = false ∧ s.phase.computing = false := by
  simp [State.accepting, State.ready]

theorem exec_status_of_accepting (h : s.accepting = true) :
    exec .status s = .next (s.send s.statusResponse) :=
  congrArg _ (if_pos h)

/-! ### The command level's transition (R11) -/

theorem commandStep_of_command {c : Command} (hacc : s.accepting = true) (hc : s.cmd = f :: rest)
    (hd : decodeFrame f = .ok c) : commandStep s = exec (commandInstr c) { s with cmd := rest } := by
  simp [commandStep, hc, hacc, hd]

theorem commandStep_of_illegal {why : Reject} (hacc : s.accepting = true) (hc : s.cmd = f :: rest)
    (hd : decodeFrame f = .illegal why) : commandStep s = .next { s with cmd := rest }.rejectFrame := by
  simp [commandStep, hc, hacc, hd]

/-- In HALT a command is what ACCEPT's halted form makes of its frame. -/
theorem exec_command_halt (c : Command) (hp : s.phase = .halt) (hb : s.busy = false) :
    exec (commandInstr c) s = .next (s.dispatchHalted (.ok c)) := by
  cases c with
  | hash p => exact congrArg _ (State.command_halt (.hash p) _ hp hb)
  | update p => exact congrArg _ (State.command_halt (.update p) _ hp hb)
  | digest => exact congrArg _ (State.command_halt .digest _ hp hb)
  | status => exact exec_status_of_accepting (State.accepting_iff.mpr ⟨hb, by rw [hp]; rfl⟩)

/-- In IDLE a command is what ACCEPT makes of its frame, unless it is a HASH or UPDATE that passes its length
check. -/
theorem exec_command_idle (c : Command) (hp : s.phase = .idle) (hb : s.busy = false)
    (hhash : ∀ p, c = .hash p → s.params.maxBytes.val < p.length)
    (hupdate : ∀ p, c = .update p → s.params.maxBytes.val < s.mlen + p.length) :
    exec (commandInstr c) s = .next (s.dispatch (.ok c)) := by
  cases c with
  | hash p =>
    rw [State.dispatch_hash_of_lt (hhash p rfl), ← State.hashEffect_of_lt (hhash p rfl)]
    exact exec_hash_idle hp hb p
  | update p =>
    rw [State.dispatch_update_of_lt (hupdate p rfl), ← State.updateEffect_of_lt (hupdate p rfl)]
    exact exec_update_idle hp hb p
  | digest => exact exec_digest_idle hp hb
  | status => exact exec_status_of_accepting (State.accepting_iff.mpr ⟨hb, by rw [hp]; rfl⟩)

theorem commandStep_halt (hp : s.phase = .halt) (hb : s.busy = false) (hc : s.cmd = f :: rest) :
    commandStep s = .next ({ s with cmd := rest }.dispatchHalted (decodeFrame f)) := by
  have hacc : s.accepting = true := State.accepting_iff.mpr ⟨hb, by rw [hp]; rfl⟩
  cases hd : decodeFrame f with
  | illegal why => exact (commandStep_of_illegal hacc hc hd).trans (congrArg _ (if_pos hp))
  | ok c => exact (commandStep_of_command hacc hc hd).trans (exec_command_halt c hp hb)

theorem commandStep_idle (hp : s.phase = .idle) (hb : s.busy = false) (hc : s.cmd = f :: rest)
    (hhash : ∀ p, decodeFrame f = .ok (.hash p) → s.params.maxBytes.val < p.length)
    (hupdate : ∀ p, decodeFrame f = .ok (.update p) → s.params.maxBytes.val < s.mlen + p.length) :
    commandStep s = .next ({ s with cmd := rest }.dispatch (decodeFrame f)) := by
  have hacc : s.accepting = true := State.accepting_iff.mpr ⟨hb, by rw [hp]; rfl⟩
  cases hd : decodeFrame f with
  | illegal why => exact (commandStep_of_illegal hacc hc hd).trans (congrArg _ (if_neg (by simp [hp])))
  | ok c =>
    exact (commandStep_of_command hacc hc hd).trans (exec_command_idle c hp hb
      (fun p hcp => hhash p (hcp ▸ hd)) (fun p hcp => hupdate p (hcp ▸ hd)))

end Sys2Proof.Machine

namespace Sys2Proof.Proofs

open Sys2Proof Sys2Proof.Machine

/-- Settles O5: no phase has a reserved code. -/
theorem stepRunsMicroOperationOfPhase : Obligations.StepRunsMicroOperationOfPhase := by
  intro s
  obtain ⟨i, hi⟩ := decode_phase_code s.phase
  exact ⟨i, hi, step_eq_exec hi⟩

/-- Settles O37, by DVALID. -/
theorem digestCommandResult : Obligations.DigestCommandResult :=
  fun _ hp hb =>
    ⟨fun hd => (exec_digest_idle hp hb).trans (congrArg _ (State.digestEffect_of_dvalid hd)),
      fun hd => (exec_digest_idle hp hb).trans (congrArg _ (State.digestEffect_of_not_dvalid hd))⟩

/-- Settles O38: SR fits four bytes, and MLEN eight since MAXBYTES is below 2^61. -/
theorem statusCommandResult : Obligations.StatusCommandResult := by
  intro s hp hb hlen
  have hmax := s.params.maxBytes.isLt
  have hacc : s.accepting = true :=
    State.accepting_iff.mpr ⟨hb, s.phase.computing_eq_false_iff.mpr hp⟩
  refine ⟨_, exec_status_of_accepting hacc, by simp, ?_, ?_⟩
  · rw [List.take_left' (bigEndian_length 4 _)]
    exact bigEndianValue_bigEndian s.sr.isLt
  · rw [List.drop_left' (bigEndian_length 4 _)]
    exact bigEndianValue_bigEndian (by omega)

/-- Settles O34, by the length check. -/
theorem hashCommandResult : Obligations.HashCommandResult := by
  intro p s hp hb
  rw [exec_hash_idle hp hb]
  refine ⟨fun hle => ?_, fun hlt => congrArg _ (State.hashEffect_of_lt hlt)⟩
  exact ⟨_, congrArg _ (State.hashEffect_of_le hle), Memory.assign_bytes p, Memory.assign_wf p,
    Memory.assign_length p, rfl, rfl, rfl, rfl, rfl, rfl, rfl, rfl, rfl, rfl⟩

/-- Settles O35, by the length check; in canonical form MSG is read as its bytes, the old ones first. -/
theorem updateCommandResult : Obligations.UpdateCommandResult := by
  intro p s hp hb hwf
  rw [exec_update_idle hp hb]
  refine ⟨fun hle => ?_, fun hlt => congrArg _ (State.updateEffect_of_lt hlt)⟩
  have hlen : s.msg.bytes.length = s.mlen := s.msg.bytes_length
  have hwf' := Memory.append_wf s.msg p hwf
  have hread (i : Nat) : (s.msg.append p).read i = (s.msg.bytes ++ p)[i]? := by
    rw [Memory.read_of_wf _ hwf', Memory.append_bytes]
  refine ⟨_, congrArg _ (State.updateEffect_of_le hle), Memory.append_bytes s.msg p, hwf',
    Memory.append_length s.msg p, fun i hi => ?_, fun k => ?_, rfl, rfl, rfl, rfl, rfl, rfl, rfl, rfl,
    rfl, rfl⟩
  · rw [Memory.read_of_wf _ hwf]
    exact (hread i).trans (List.getElem?_append_left (hlen ▸ hi))
  · exact (hread (s.mlen + k)).trans (by simp [List.getElem?_append_right, hlen])

/-- Settles O36: both commands end in Run and one response more. -/
theorem runLeavesState : Obligations.RunLeavesState := by
  intro i m s hp hb hmax hi
  have hrun : ∃ (u : State) (r : Frame), exec i s = .next ((u.runCommand m).send r) ∧ u.fault = s.fault := by
    obtain rfl | ⟨p, rfl, rfl⟩ := hi
    · exact ⟨_, _, (exec_hash_idle hp hb m).trans (congrArg _ (State.hashEffect_of_le hmax)), rfl⟩
    · have hle : s.mlen + p.length ≤ s.params.maxBytes.val := by simpa [State.mlen] using hmax
      exact ⟨_, _, (exec_update_idle hp hb p).trans (congrArg _ (State.updateEffect_of_le hle)), rfl⟩
  obtain ⟨u, r, hexec, hfault⟩ := hrun
  exact ⟨_, hexec, rfl, rfl, rfl, rfl, hfault,
    bitlen_toNat_of_lt (hmax.trans_lt s.params.maxBytes.isLt), rfl, rfl, rfl, rfl, rfl, rfl, rfl, rfl⟩

/-- Settles O39, by the frame in IDLE; in HALT by `State.dispatchHalted_eq`. -/
theorem acceptDispatchesFrame : Obligations.AcceptDispatchesFrame := by
  refine ⟨fun s h => ?_, fun s f rest hb hc => ⟨fun hp => ?_, fun hp => ?_⟩⟩
  · obtain hbusy | hcomp | hcmd := h
    · exact execAccept_of_busy (.inl hbusy)
    · exact execAccept_of_busy (.inr hcomp)
    · exact execAccept_of_noFrame hcmd
  · have haccept : exec .accept s = .next ({ s with cmd := rest }.dispatch (decodeFrame f)) :=
      execAccept_of_frame hp hb hc
    rw [haccept]
    refine ⟨fun p hd => ?_, fun p hd => ?_, fun hd => ?_, fun hd => ?_, fun why hd => ?_⟩ <;> rw [hd]
    · exact ⟨fun hlt => congrArg _ (State.dispatch_hash_of_lt hlt), fun hle =>
        ⟨_, congrArg _ (State.dispatch_hash_of_le hle), Memory.assign_bytes p, Memory.assign_wf p, rfl⟩⟩
    · exact ⟨fun hlt => congrArg _ (State.dispatch_update_of_lt hlt), fun hle =>
        ⟨_, congrArg _ (State.dispatch_update_of_le hle), Memory.append_bytes s.msg p,
          Memory.append_wf s.msg p, rfl⟩⟩
    · split
      case isTrue hd => exact congrArg _ (State.digestEffect_of_dvalid hd)
      case isFalse hd =>
        exact congrArg _ (State.digestEffect_of_not_dvalid (Bool.eq_false_iff.mpr hd))
    · rfl
    · rfl
  · have haccept : exec .accept s = execAcceptHalt s := execAccept_of_not_idle (by simp [hp])
    rw [haccept, execAcceptHalt_of_frame hp hb hc, State.dispatchHalted_eq]
    rfl

/-- Settles O53, by the phase: IDLE or HALT. -/
theorem otherFramesTakeOneStep : Obligations.OtherFramesTakeOneStep := by
  intro s f rest hb hcomp hc hstart
  obtain hp | hp := s.phase.computing_eq_false_iff.mp hcomp
  · obtain hh | ⟨hhash, hupdate⟩ := hstart
    · simp [hp] at hh
    · rw [step_idle hp, execAccept_of_frame hp hb hc, commandStep_idle hp hb hc hhash hupdate]
  · rw [step_halt hp, execAcceptHalt_of_frame hp hb hc, commandStep_halt hp hb hc]

end Sys2Proof.Proofs
end

section
/-! PROOFS. The sequencer's table (R206): from the invariant every step answers a next state, at the position
the table gives. -/

namespace Sys2Proof.Machine

open Sys2Proof

variable {s : State}

/-- PHASE, BI and T, which the table of R206 moves. -/
def State.position (s : State) : Phase × Nat × Nat := (s.phase, s.bi, s.t.val)

/-- BUSY = 0 in IDLE (R36). -/
theorem State.busy_of_idle (hs : s.Inv = true) (hp : s.phase = .idle) : s.busy = false :=
  (accepting_iff.mp (accepting_of_not_computing hs (by rw [hp]; rfl))).1

/-- The phase that ACCEPT of a frame in IDLE enters (R200, R242 to R244). -/
def State.phaseAfterDispatch (s : State) : Decoded Command → Phase
  | .illegal _ => .halt
  | .ok (.hash p) => if p.length ≤ s.params.maxBytes.val then .pad else .halt
  | .ok (.update p) => if s.mlen + p.length ≤ s.params.maxBytes.val then .pad else .halt
  | .ok .digest => if s.dvalid then .idle else .halt
  | .ok .status => .idle

theorem State.dispatch_position (hp : s.phase = .idle) (d : Decoded Command) :
    (s.dispatch d).position = (s.phaseAfterDispatch d, s.bi, s.t.val) := by
  match d with
  | .illegal _ => rfl
  | .ok (.hash p) =>
    by_cases hle : p.length ≤ s.params.maxBytes.val
    · rw [dispatch_hash_of_le hle, phaseAfterDispatch, if_pos hle]; rfl
    · rw [dispatch_hash_of_lt (Nat.lt_of_not_le hle), phaseAfterDispatch, if_neg hle]; rfl
  | .ok (.update p) =>
    by_cases hle : s.mlen + p.length ≤ s.params.maxBytes.val
    · rw [dispatch_update_of_le hle, phaseAfterDispatch, if_pos hle]; rfl
    · rw [dispatch_update_of_lt (Nat.lt_of_not_le hle), phaseAfterDispatch, if_neg hle]; rfl
  | .ok .digest =>
    cases hdv : s.dvalid
    · simp [dispatch, digestEffect, phaseAfterDispatch, position, hdv]
    · simp [dispatch, digestEffect, phaseAfterDispatch, position, hdv, hp]
  | .ok .status => simp [dispatch, phaseAfterDispatch, position, hp]

theorem State.nextPosition_of_frame {f : Frame} {rest : List Frame} (hp : s.phase = .idle)
    (hc : s.cmd = f :: rest) :
    s.nextPosition = (s.phaseAfterDispatch (decodeFrame f), s.bi, s.t.val) := by
  simp only [nextPosition, hp, hc]
  cases decodeFrame f with
  | illegal why => rfl
  | ok c => cases c <;> rfl

theorem execAccept_position (hs : s.Inv = true) (hp : s.phase = .idle) :
    ∃ t, execAccept s = .next t ∧ t.position = s.nextPosition := by
  cases hc : s.cmd with
  | nil => exact ⟨s, execAccept_of_noFrame hc, by simp [State.position, State.nextPosition, hp, hc]⟩
  | cons f rest =>
    refine ⟨_, execAccept_of_frame hp (State.busy_of_idle hs hp) hc, ?_⟩
    rw [State.nextPosition_of_frame hp hc]
    exact State.dispatch_position (s := { s with cmd := rest }) hp _

/-- In HALT, ACCEPT stays. -/
theorem execAcceptHalt_position (hp : s.phase = .halt) :
    ∃ t, execAcceptHalt s = .next t ∧ t.position = s.nextPosition := by
  have hstay : s.nextPosition = s.position := by simp [State.nextPosition, State.position, hp]
  rw [hstay]
  obtain hw | ⟨f, rest, -, -, -, hd⟩ := execAcceptHalt_cases s
  · exact ⟨s, hw, rfl⟩
  · obtain ⟨r, hr⟩ := State.dispatchHalted_cases { s with cmd := rest } (decodeFrame f)
    exact ⟨_, hd, by rw [hr]; rfl⟩

theorem step_position (hs : s.Inv = true) : ∃ t, step s = .next t ∧ t.position = s.nextPosition := by
  obtain ⟨hwf, hlen, -, -, -, -, -, -, -, hpos, -⟩ := s.inv_iff.mp hs
  have hmax := s.params.maxBytes.isLt
  cases hp : s.phase with
  | idle => rw [step_idle hp]; exact execAccept_position hs hp
  | halt => rw [step_halt hp]; exact execAcceptHalt_position hp
  | pad =>
    refine ⟨_, (step_pad hp).trans (execPad_eq_next_iff.mpr ⟨hlen.trans_lt hmax, rfl⟩), ?_⟩
    simp [State.position, State.nextPosition, hp]
  | seed =>
    refine ⟨_, step_seed hp, ?_⟩
    simp [State.position, State.nextPosition, hp]
  | ldblk =>
    have hbi := (State.positionOk_ldblk hp).mp hpos
    refine ⟨_, (step_ldblk hp).trans
      (execLdblk_eq_next_iff.mpr ⟨hbi, _, s.readBlock_eq hwf hbi, rfl⟩), ?_⟩
    simp [State.position, State.nextPosition, hp]
  | ldw =>
    obtain ⟨-, ht⟩ := (State.positionOk_ldw hp).mp hpos
    refine ⟨_, (step_ldw hp).trans (execLdw_eq_next_iff.mpr ⟨ht, rfl⟩), ?_⟩
    by_cases hlast : s.t.val = 15
    · simp [State.position, State.nextPosition, hp, hlast]
    · have hle : s.t.val ≤ 14 := by omega
      simp [State.position, State.nextPosition, hp, hlast, hle]
  | expand =>
    obtain ⟨-, ht⟩ := (State.positionOk_expand hp).mp hpos
    refine ⟨_, (step_expand hp).trans (execExpand_eq_next_iff.mpr ⟨ht, rfl⟩), ?_⟩
    by_cases hlast : s.t.val = 63
    · simp [State.position, State.nextPosition, hp, hlast]
    · have hle : s.t.val ≤ 62 := by omega
      simp [State.position, State.nextPosition, hp, hlast, hle]
  | initv =>
    refine ⟨_, step_initv hp, ?_⟩
    simp [State.position, State.nextPosition, hp]
  | round =>
    obtain ⟨-, ht⟩ := (State.positionOk_round hp).mp hpos
    refine ⟨_, (step_round hp).trans (execRound_eq_next_iff.mpr ⟨ht, rfl⟩), ?_⟩
    by_cases hlast : s.t.val = 63
    · simp [State.position, State.nextPosition, hp, hlast]
    · have hle : s.t.val ≤ 62 := by omega
      simp [State.position, State.nextPosition, hp, hlast, hle]
  | chain =>
    obtain ⟨hbi, -⟩ := (State.positionOk_chain hp).mp hpos
    refine ⟨_, step_chain hp, ?_⟩
    by_cases hlast : s.bi + 1 = s.nblk
    · simp [State.position, State.nextPosition, hp, hlast]
    · have hlt : s.bi + 1 < s.nblk := by omega
      simp [State.position, State.nextPosition, hp, hlast, hlt]
  | serialize =>
    refine ⟨_, (step_serialize hp).trans (execSerialize_eq_next_iff.mpr rfl), ?_⟩
    simp [State.position, State.nextPosition, hp]

end Sys2Proof.Machine

namespace Sys2Proof.Proofs

open Sys2Proof Sys2Proof.Machine

/-- Settles O50, by the phase the step starts in: its guard is the invariant's bound of the position. -/
theorem sequencerMovesByTable : Obligations.SequencerMovesByTable :=
  fun _ hs => step_position hs

end Sys2Proof.Proofs
end

section
/-! PROOFS. Run (R205) depends on the elements it does not write alone, so HASH A then UPDATE B runs as HASH of
A and B together does (R208), and every state of a computation has the command's outcome in it (R207). -/

namespace Sys2Proof.Machine

open Sys2Proof

variable {s t : State}

/-- `t` has the elements of `s` that Run does not write. -/
def State.AgreesBesideRun (s t : State) : Prop :=
  t.msg = s.msg ∧ t.le = s.le ∧ t.fault = s.fault ∧ t.cmd = s.cmd ∧ t.rsp = s.rsp
    ∧ t.unitOut = s.unitOut ∧ t.params = s.params

theorem State.AgreesBesideRun.runCommand_eq (h : s.AgreesBesideRun t) (m : List Byte) :
    t.runCommand m = s.runCommand m := by
  obtain ⟨hmsg, hle, hfault, hcmd, hrsp, hunit, hparams⟩ := h
  simp only [State.runCommand, hmsg, hle, hfault, hcmd, hrsp, hunit, hparams,
    enc64_overwrites s.le _ t.lane s.lane]

theorem Memory.assign_append (a b : List Byte) : (Memory.assign a).append b = Memory.assign (a ++ b) := by
  rw [Memory.append, Memory.assign_length, Memory.assign, Memory.assign, cellsAt_append, Nat.zero_add]

/-! ### The outcome of a running command -/

/-- The end of the computation that `s` is in, at the command level: Run on the retained message, and the
response of the running command (R190, R201, R202; log entry 2). -/
def State.completed (s : State) : State :=
  { { s.runCommand s.msg.bytes with running := s.running }.sendResult with running := .none }

theorem State.hashEffect_eq_completed {p : List Byte} (h : p.length ≤ s.params.maxBytes.val) :
    s.hashEffect p = (s.startHash p).completed := by
  rw [State.hashEffect_of_le h, State.completed, State.startHash_msg, Memory.assign_bytes]
  rfl

theorem State.updateEffect_eq_completed {p : List Byte} (h : s.mlen + p.length ≤ s.params.maxBytes.val) :
    s.updateEffect p = (s.startUpdate p).completed := by
  rw [State.updateEffect_of_le h, State.completed, State.startUpdate_msg, Memory.append_bytes]
  rfl

theorem exec_hash_completed {p : List Byte} (hp : s.phase = .idle) (hb : s.busy = false)
    (hle : p.length ≤ s.params.maxBytes.val) : exec (.hash p) s = .next (s.startHash p).completed :=
  (exec_hash_idle hp hb p).trans (congrArg _ (State.hashEffect_eq_completed hle))

theorem exec_update_completed {p : List Byte} (hp : s.phase = .idle) (hb : s.busy = false)
    (hle : s.mlen + p.length ≤ s.params.maxBytes.val) :
    exec (.update p) s = .next (s.startUpdate p).completed :=
  (exec_update_idle hp hb p).trans (congrArg _ (State.updateEffect_eq_completed hle))

/-- The steps before SERIALIZE leave the outcome as it is. -/
theorem step_completed (hc : s.phase.computing = true) (hp : s.phase ≠ .serialize)
    (h : step s = .next t) : t.completed = s.completed := by
  have hframe := step_computing_frame hc hp h
  have hmsg : t.msg = s.msg := by rw [hframe]
  have hrun : t.running = s.running := by rw [hframe]
  have hbeside : s.AgreesBesideRun t := by
    rw [hframe]; exact ⟨rfl, rfl, rfl, rfl, rfl, rfl, rfl⟩
  rw [State.completed, hmsg, hrun, hbeside.runCommand_eq, ← State.completed]

end Sys2Proof.Machine

namespace Sys2Proof.Proofs

open Sys2Proof Sys2Proof.Machine

/-- Settles O54: UPDATE B appends to the A retained and runs on the whole. -/
theorem updateIsRehashOfConcatenation : Obligations.UpdateIsRehashOfConcatenation := by
  intro a b s hp hb hle
  have ha : a.length ≤ s.params.maxBytes.val := by omega
  have hab : (a ++ b).length ≤ s.params.maxBytes.val := by simpa using hle
  have hhash := (exec_hash_idle hp hb a).trans (congrArg _ (State.hashEffect_of_le ha))
  have hwhole := (exec_hash_idle hp hb (a ++ b)).trans (congrArg _ (State.hashEffect_of_le hab))
  generalize ht : ((s.startHash a).runCommand a).send ((s.startHash a).runCommand a).digestResponse = t
    at hhash
  have hbytes : t.msg.bytes = a := by rw [← ht]; exact Memory.assign_bytes a
  have hfits : t.mlen + b.length ≤ t.params.maxBytes.val := by
    rw [State.mlen, ← t.msg.bytes_length, hbytes, ← ht]
    exact hle
  have hupdate : exec (.update b) t = _ :=
    (exec_update_idle (by rw [← ht]; rfl) (by rw [← ht]; rfl) b).trans
      (congrArg _ (State.updateEffect_of_le hfits))
  have hbeside : { s.startHash (a ++ b) with rsp := t.rsp }.AgreesBesideRun (t.startUpdate b) := by
    rw [← ht]
    exact ⟨Memory.assign_append a b, rfl, rfl, rfl, rfl, rfl, rfl⟩
  rw [hbytes, hbeside.runCommand_eq] at hupdate
  exact ⟨t, _, _, hhash, hupdate, hwhole, rfl, rfl⟩

end Sys2Proof.Proofs
end

section
/-! PROOFS. The two levels agree on HASH and UPDATE (R207): the steps a computation has left, what its last
block leaves in LANE and in the block's registers, and the induction over the steps. -/

namespace Sys2Proof.Machine

open Sys2Proof

variable {s t : State}

/-! ### The steps left (R206, R207) -/

/-- The steps from the end of the block in process to the end of the computation: 131 for each further block,
and SERIALIZE. -/
def State.stepsAfterBlock (s : State) : Nat := 131 * (s.nblk - s.bi - 1) + 1

/-- The steps a computation has left. -/
def State.stepsLeft (s : State) : Nat :=
  match s.phase with
  | .idle => 0
  | .pad => 3 + 131 * blockCount s.mlen
  | .seed => 2 + 131 * s.nblk
  | .ldblk => s.stepsAfterBlock + 131
  | .ldw => s.stepsAfterBlock + (130 - s.t.val)
  | .expand => s.stepsAfterBlock + (130 - s.t.val)
  | .initv => s.stepsAfterBlock + 66
  | .round => s.stepsAfterBlock + (65 - s.t.val)
  | .chain => s.stepsAfterBlock + 1
  | .serialize => 1
  | .halt => 0

/-- A step before SERIALIZE leaves the engine computing. -/
theorem step_computing (hs : s.Inv = true) (hc : s.phase.computing = true) (hp : s.phase ≠ .serialize)
    (h : step s = .next t) : t.phase.computing = true := by
  obtain ⟨-, -, -, hbusy, -⟩ := s.inv_iff.mp hs
  obtain ⟨-, -, -, hbusy', -⟩ := t.inv_iff.mp (step_inv hs h)
  rw [← hbusy', step_computing_frame hc hp h]
  exact hbusy.trans hc

/-- Each step before SERIALIZE is one of them. -/
theorem step_stepsLeft (hs : s.Inv = true) (hc : s.phase.computing = true) (hne : s.phase ≠ .serialize)
    (h : step s = .next t) : t.stepsLeft + 1 = s.stepsLeft := by
  obtain ⟨-, -, -, -, -, -, -, -, -, hpos, -⟩ := s.inv_iff.mp hs
  cases hp : s.phase with
  | idle => rw [hp] at hc; cases hc
  | halt => rw [hp] at hc; cases hc
  | serialize => exact absurd hp hne
  | pad =>
    obtain ⟨-, rfl⟩ := execPad_eq_next_iff.mp (step_pad hp ▸ h)
    simp only [State.stepsLeft, hp]
    omega
  | seed =>
    obtain rfl := execSeed_eq_next_iff.mp (step_seed hp ▸ h)
    obtain ⟨hbi, hnb⟩ := (State.positionOk_seed hp).mp hpos
    simp only [State.stepsLeft, State.stepsAfterBlock, hp]
    omega
  | ldblk =>
    obtain ⟨-, b, -, rfl⟩ := execLdblk_eq_next_iff.mp (step_ldblk hp ▸ h)
    simp only [State.stepsLeft, State.stepsAfterBlock, hp]
    rfl
  | ldw =>
    obtain ⟨ht, rfl⟩ := execLdw_eq_next_iff.mp (step_ldw hp ▸ h)
    simp only [State.stepsLeft, State.stepsAfterBlock, hp, indexAfter_val]
    split_ifs <;> dsimp only <;> omega
  | expand =>
    obtain ⟨ht, rfl⟩ := execExpand_eq_next_iff.mp (step_expand hp ▸ h)
    simp only [State.stepsLeft, State.stepsAfterBlock, hp, indexAfter_val]
    split_ifs <;> dsimp only <;> omega
  | initv =>
    obtain rfl := execInitv_eq_next_iff.mp (step_initv hp ▸ h)
    simp only [State.stepsLeft, State.stepsAfterBlock, hp]
    rfl
  | round =>
    obtain ⟨ht, rfl⟩ := execRound_eq_next_iff.mp (step_round hp ▸ h)
    simp only [State.stepsLeft, State.stepsAfterBlock, hp, indexAfter_val]
    split_ifs <;> dsimp only <;> omega
  | chain =>
    obtain ⟨hbi, -⟩ := (State.positionOk_chain hp).mp hpos
    obtain rfl := execChain_eq_next_iff.mp (step_chain hp ▸ h)
    simp only [State.stepsLeft, State.stepsAfterBlock, hp]
    split_ifs <;> dsimp only <;> omega

/-! ### LANE in the last block (R124, R140; log entry 7) -/

/-- The next NORM32 leaves LANE as it does after the trailer's ENC64. -/
def State.trailerStaged (s : State) : Prop :=
  ∀ b, norm32Lane s.le b s.lane = norm32Lane s.le b (enc64 s.le s.bitlen s.lane)

/-- LANE holds the block's last word over the trailer. -/
def State.lastWordStaged (s : State) : Prop :=
  s.lane = norm32Lane s.le (blockBytes s.blk 15 (by decide)) (enc64 s.le s.bitlen s.lane)

/-- SERIALIZE's own writes. -/
def State.serialized (s : State) : State :=
  { s with digest := hexDigest s.h, dvalid := true, busy := false, phase := .idle, running := .none }

/-- What holds of LANE in the last block; after it, Run has nothing left to write but what SERIALIZE writes. -/
def State.nearsRun (s : State) : Prop :=
  match s.phase with
  | .ldw => s.bi + 1 = s.nblk → s.trailerStaged
  | .expand | .initv | .round | .chain => s.bi + 1 = s.nblk → s.lastWordStaged
  | .serialize => s.runCommand s.msg.bytes = s.serialized
  | .idle | .pad | .seed | .ldblk | .halt => True

theorem execLdblk_trailerStaged (hs : s.Inv = true) (hp : s.phase = .ldblk) (hlast : s.bi + 1 = s.nblk)
    (h : execLdblk s = .next t) : t.trailerStaged := by
  obtain ⟨-, -, -, -, -, -, -, -, -, -, hlens⟩ := s.inv_iff.mp hs
  obtain ⟨-, hnb⟩ := s.lengthsOk_iff.mp hlens (by rw [hp]; rfl)
  have hroom := blockCount_room s.mlen
  have htrailer : s.inTrailer (64 * s.bi + 63) = true := by
    simp only [State.inTrailer, Bool.and_eq_true, decide_eq_true_eq]
    omega
  obtain ⟨-, b, -, rfl⟩ := execLdblk_eq_next_iff.mp h
  intro b
  simp only [State.laneAfterBlock, if_pos htrailer]
  exact congrArg _ (enc64_overwrites ..)

theorem execLdw_trailerStaged (hst : s.trailerStaged) (h : execLdw s = .next t) : t.trailerStaged := by
  obtain ⟨ht, rfl⟩ := execLdw_eq_next_iff.mp h
  intro b
  simp only [norm32Lane_overwrites]
  exact (hst b).trans (congrArg _ (enc64_overwrites ..))

/-- LDW of word 15 is the block's last use of LANE. -/
theorem execLdw_lastWordStaged (hst : s.trailerStaged) (hlast : s.t.val = 15) (h : execLdw s = .next t) :
    t.lastWordStaged := by
  obtain ⟨ht, rfl⟩ := execLdw_eq_next_iff.mp h
  simp only [State.lastWordStaged, hlast]
  exact (hst _).trans (congrArg _ (enc64_overwrites ..))

/-- CHAIN of the last block leaves what Run leaves, but for SERIALIZE's writes (R205). -/
theorem execChain_runCommand (hs : s.Inv = true) (hp : s.phase = .chain) (hcomp : s.computes)
    (hlane : s.lastWordStaged) (hlast : s.bi + 1 = s.nblk) (h : execChain s = .next t) :
    t.runCommand t.msg.bytes = t.serialized := by
  obtain ⟨-, -, -, -, -, -, -, -, -, hpos, hlens⟩ := s.inv_iff.mp hs
  obtain ⟨-, ht⟩ := (State.positionOk_chain hp).mp hpos
  obtain ⟨hbits, hnb⟩ := s.lengthsOk_iff.mp hlens (by rw [hp]; rfl)
  simp only [State.computes, hp] at hcomp
  obtain ⟨hchained, hloaded, hw, hrounds⟩ := hcomp
  have hn : blockCount s.msg.bytes.length = s.bi + 1 := by
    rw [s.msg.bytes_length, hlast, hnb, State.mlen]
  have hbitlen : BitVec.ofNat 64 (8 * s.msg.bytes.length) = s.bitlen := by
    rw [s.msg.bytes_length, ← State.mlen, ← hbits, BitVec.ofNat_toNat, BitVec.setWidth_eq]
  have htlast : s.t = 64 := Fin.ext ht
  have hblk : messageBlock s.msg.bytes s.bi = s.blk := hloaded.symm
  have hv : rounds s.w (hashState s.msg.bytes s.bi) 64 = s.v := by rw [hrounds, ht, hchained, hw]
  have hchained' := execChain_chained hchained hloaded hrounds ht h
  obtain rfl := execChain_eq_next_iff.mp h
  have hh : hashState s.msg.bytes (s.bi + 1) = addWords s.h s.v := hchained'.symm
  simp only [State.runCommand, State.serialized, sha256hex, hn, Nat.add_sub_cancel, hbitlen, hblk, ← hw, hv,
    hh, htlast]
  rw [← hlane, hlast]

/-- Each step of a computation keeps `nearsRun`. -/
theorem step_nearsRun (hs : s.Inv = true) (htr : s.Tracks) (hnr : s.nearsRun)
    (hc : s.phase.computing = true) (h : step s = .next t) : t.nearsRun := by
  obtain ⟨-, hcomp⟩ := htr
  unfold State.nearsRun at hnr
  cases hp : s.phase with
  | idle => rw [hp] at hc; cases hc
  | halt => rw [hp] at hc; cases hc
  | pad =>
    obtain ⟨-, rfl⟩ := execPad_eq_next_iff.mp (step_pad hp ▸ h)
    trivial
  | seed =>
    obtain rfl := execSeed_eq_next_iff.mp (step_seed hp ▸ h)
    trivial
  | serialize =>
    obtain rfl := execSerialize_eq_next_iff.mp (step_serialize hp ▸ h)
    trivial
  | ldblk =>
    have h' := step_ldblk hp ▸ h
    have hstaged (hlast : s.bi + 1 = s.nblk) := execLdblk_trailerStaged hs hp hlast h'
    obtain ⟨-, b, -, rfl⟩ := execLdblk_eq_next_iff.mp h'
    exact hstaged
  | ldw =>
    have h' := step_ldw hp ▸ h
    simp only [hp] at hnr
    have hstaged (hlast : s.bi + 1 = s.nblk) := execLdw_trailerStaged (hnr hlast) h'
    have hword (ht : s.t.val = 15) (hlast : s.bi + 1 = s.nblk) := execLdw_lastWordStaged (hnr hlast) ht h'
    obtain ⟨ht, rfl⟩ := execLdw_eq_next_iff.mp h'
    by_cases hend : s.t.val + 1 = 16
    · simp only [if_pos hend] at hword ⊢
      exact hword (by omega)
    · simp only [if_neg hend] at hstaged ⊢
      exact hstaged
  | expand =>
    obtain ⟨ht, rfl⟩ := execExpand_eq_next_iff.mp (step_expand hp ▸ h)
    simp only [hp] at hnr
    unfold State.nearsRun
    dsimp only
    split_ifs <;> exact hnr
  | initv =>
    obtain rfl := execInitv_eq_next_iff.mp (step_initv hp ▸ h)
    simp only [hp] at hnr
    exact hnr
  | round =>
    obtain ⟨ht, rfl⟩ := execRound_eq_next_iff.mp (step_round hp ▸ h)
    simp only [hp] at hnr
    unfold State.nearsRun
    dsimp only
    split_ifs <;> exact hnr
  | chain =>
    have h' := step_chain hp ▸ h
    simp only [hp] at hnr
    have hrun (hlast : s.bi + 1 = s.nblk) := execChain_runCommand hs hp hcomp (hnr hlast) hlast h'
    obtain rfl := execChain_eq_next_iff.mp h'
    by_cases hlast : s.bi + 1 = s.nblk
    · simp only [if_pos hlast] at hrun ⊢
      exact hrun hlast
    · simp only [if_neg hlast]
      trivial

/-- SERIALIZE ends the computation in its outcome (R190, R205). -/
theorem step_serialize_completed (hp : s.phase = .serialize) (hnr : s.nearsRun) :
    step s = .next s.completed := by
  simp only [State.nearsRun, hp] at hnr
  rw [step_serialize hp, State.completed, hnr]
  rfl

/-! ### The run -/

/-- The steps a computation has left end in its outcome. -/
theorem runSteps_stepsLeft {s : State} (hs : s.Inv = true) (htr : s.Tracks) (hnr : s.nearsRun)
    (hc : s.phase.computing = true) : runSteps s.stepsLeft s = .next s.completed := by
  by_cases hp : s.phase = .serialize
  · have hone : s.stepsLeft = 1 := by simp [State.stepsLeft, hp]
    rw [hone]
    exact runSteps_one (step_serialize_completed hp hnr)
  · obtain ⟨t, ht, -⟩ := step_position hs
    have hleft := step_stepsLeft hs hc hp ht
    have hrest := runSteps_stepsLeft (step_inv hs ht) (step_tracks hs htr ht) (step_nearsRun hs htr hnr hc ht)
      (step_computing hs hc hp ht)
    rw [step_completed hc hp ht] at hrest
    rw [← hleft, Nat.add_comm]
    exact runSteps_trans (runSteps_one ht) hrest
termination_by s.stepsLeft

/-- From ACCEPT's start of a computation to its outcome: ACCEPT, PAD, SEED, 131 steps a block, SERIALIZE
(R207). -/
theorem runSteps_of_accept (h : step s = .next t) (ht : t.Inv = true) (hp : t.phase = .pad) :
    runSteps (4 + 131 * blockCount t.mlen) s = .next t.completed := by
  have hc : t.phase.computing = true := by rw [hp]; rfl
  have htr : t.Tracks :=
    State.tracks_of_computes (State.dvalid_of_computing ht hc) (by simp [State.computes, hp])
  have hrun := runSteps_stepsLeft ht htr (by simp [State.nearsRun, hp]) hc
  have hleft : 4 + 131 * blockCount t.mlen = 1 + t.stepsLeft := by
    simp only [State.stepsLeft, hp]
    omega
  rw [hleft]
  exact runSteps_trans (runSteps_one h) hrun

end Sys2Proof.Machine

namespace Sys2Proof.Proofs

open Sys2Proof Sys2Proof.Machine

/-- Settles O52: ACCEPT starts the computation, whose outcome is the command's effect. -/
theorem sequencerReachesCommandLevel : Obligations.SequencerReachesCommandLevel := by
  intro s p rest hs hp
  have hb := State.busy_of_idle hs hp
  have hrest : { s with cmd := rest }.Inv = true := (s.dropFrame_inv rest).trans hs
  refine ⟨fun hc hle => ?_, fun hc hle => ?_⟩
  · have hstart : step s = .next ({ s with cmd := rest }.startHash p) := by
      rw [step_idle hp, execAccept_of_frame hp hb hc]
      exact congrArg _ (State.dispatch_hash_of_le hle)
    have hrun := runSteps_of_accept hstart (State.startHash_inv hrest hp hle) rfl
    rw [State.mlen, State.startHash_msg, Memory.assign_length] at hrun
    exact hrun.trans (exec_hash_completed (s := { s with cmd := rest }) hp hb hle).symm
  · have hstart : step s = .next ({ s with cmd := rest }.startUpdate p) := by
      rw [step_idle hp, execAccept_of_frame hp hb hc]
      exact congrArg _ (State.dispatch_update_of_le hle)
    have hrun := runSteps_of_accept hstart (State.startUpdate_inv hrest hp hle) rfl
    rw [State.mlen, State.startUpdate_msg, Memory.append_length, ← State.mlen] at hrun
    exact hrun.trans (exec_update_completed (s := { s with cmd := rest }) hp hb hle).symm

end Sys2Proof.Proofs
end

section
/-! PROOFS. Faults and HALT (60_exceptions.md): no computation raises a fault (R240, R241), a fault is raised by
ACCEPT in IDLE and is precise (R247), and HALT answers frames and changes the ports alone (R248). -/

namespace Sys2Proof.Machine

open Sys2Proof

variable {s t : State}

/-! ### The functional units inverted (R101 to R103) -/

theorem execRev_eq_next_iff {n : Nat} :
    execRev n s = .next t ↔ ∃ h : n ≤ 8, t = { s with lane := reverseLane n h s.lane } := by
  unfold execRev
  split <;> simp [*, eq_comm]

theorem execRotr_eq_next_iff {x : Word} {n : Nat} :
    execRotr x n s = .next t ↔ n ≤ 31 ∧ t = { s with unitOut := rotateRight x n } := by
  unfold execRotr
  split <;> simp [*, eq_comm]

theorem execRotl_eq_next_iff {x : Word} {n : Nat} :
    execRotl x n s = .next t ↔ n ≤ 31 ∧ t = { s with unitOut := rotateLeft x n } := by
  unfold execRotl
  split <;> simp [*, eq_comm]

/-! ### A computation raises nothing (R240) -/

/-- The micro-operations from PAD to SERIALIZE. -/
def computationOps : List Instr :=
  [.pad, .seed, .ldblk, .ldw, .expand, .initv, .round, .chain, .serialize]

theorem Phase.ite_ne_halt {c : Prop} [Decidable c] {p q : Phase} (hp : p ≠ .halt) (hq : q ≠ .halt) :
    (if c then p else q) ≠ .halt := by
  split
  · exact hp
  · exact hq

/-- Each micro-operation of a computation writes PHASE with a phase other than HALT, and FAULT not at all. -/
theorem exec_computationOps {i : Instr} (hi : i ∈ computationOps) (h : exec i s = .next t) :
    t.fault = s.fault ∧ t.phase ≠ .halt := by
  simp only [computationOps, List.mem_cons, List.not_mem_nil, or_false] at hi
  obtain rfl | rfl | rfl | rfl | rfl | rfl | rfl | rfl | rfl := hi
  · obtain ⟨-, rfl⟩ := execPad_eq_next_iff.mp h
    exact ⟨rfl, nofun⟩
  · obtain rfl := execSeed_eq_next_iff.mp h
    exact ⟨rfl, nofun⟩
  · obtain ⟨-, b, -, rfl⟩ := execLdblk_eq_next_iff.mp h
    exact ⟨rfl, nofun⟩
  · obtain ⟨-, rfl⟩ := execLdw_eq_next_iff.mp h
    exact ⟨rfl, Phase.ite_ne_halt nofun nofun⟩
  · obtain ⟨-, rfl⟩ := execExpand_eq_next_iff.mp h
    exact ⟨rfl, Phase.ite_ne_halt nofun nofun⟩
  · obtain rfl := execInitv_eq_next_iff.mp h
    exact ⟨rfl, nofun⟩
  · obtain ⟨-, rfl⟩ := execRound_eq_next_iff.mp h
    exact ⟨rfl, Phase.ite_ne_halt nofun nofun⟩
  · obtain rfl := execChain_eq_next_iff.mp h
    exact ⟨rfl, Phase.ite_ne_halt nofun nofun⟩
  · obtain rfl := execSerialize_eq_next_iff.mp h
    exact ⟨rfl, nofun⟩

/-- The phases of a computation select its micro-operations (R29). -/
theorem decode_computing_phase {ph : Phase} (hc : ph.computing = true) :
    ∃ i ∈ computationOps, decode (.phase ph.code) = .ok i := by
  cases ph with
  | idle | halt => cases hc
  | _ => exact ⟨_, by simp [computationOps], rfl⟩

theorem step_computing_ne_halt (hc : s.phase.computing = true) (h : step s = .next t) :
    t.phase ≠ .halt := by
  obtain ⟨i, hi, hdec⟩ := decode_computing_phase hc
  exact (exec_computationOps hi (step_eq_exec hdec ▸ h)).2

/-! ### Entry into HALT (R247) -/

/-- Of what a dispatched frame can do in IDLE, only a raised fault enters HALT. -/
theorem State.dispatch_enters_halt {d : Decoded Command} (hp : s.phase ≠ .halt)
    (h : (s.dispatch d).phase = .halt) : ∃ c, c ≠ .none ∧ s.dispatch d = s.raise c := by
  obtain hraise | ⟨p, -, -, hd⟩ | ⟨p, -, -, hd⟩ | ⟨r, hd⟩ := s.dispatch_cases d
  · exact hraise
  · rw [hd, startHash_phase] at h
    cases h
  · rw [hd, startUpdate_phase] at h
    cases h
  · rw [hd, send_phase] at h
    exact absurd h hp

theorem execAccept_enters_halt (hp : s.phase = .idle) (h : execAccept s = .next t) (ht : t.phase = .halt) :
    ∃ f rest c, s.cmd = f :: rest ∧ c ≠ .none ∧ t = { s with cmd := rest }.raise c := by
  have hne : s.phase ≠ .halt := by simp [hp]
  obtain hw | ⟨f, rest, hc, -, hd⟩ := execAccept_idle hp
  · cases hw.symm.trans h
    exact absurd ht hne
  · cases hd.symm.trans h
    obtain ⟨c, hcode, hraise⟩ := State.dispatch_enters_halt (s := { s with cmd := rest }) hne ht
    exact ⟨f, rest, c, hc, hcode, hraise⟩

/-! ### In HALT (R248) -/

/-- The halted form of ACCEPT changes the ports alone: it waits, or it takes one frame and answers it. -/
theorem execAcceptHalt_frame (h : execAcceptHalt s = .next t) :
    t = { s with cmd := t.cmd, rsp := t.rsp } := by
  obtain hw | ⟨f, rest, -, -, -, hd⟩ := execAcceptHalt_cases s
  · cases hw.symm.trans h
    rfl
  · cases hd.symm.trans h
    obtain ⟨r, hr⟩ := State.dispatchHalted_cases { s with cmd := rest } (decodeFrame f)
    rw [hr]
    rfl

end Sys2Proof.Machine

namespace Sys2Proof.Proofs

open Sys2Proof Sys2Proof.Machine

/-- Settles O40: 04 alone decodes to STATUS, and a command executed in HALT is what ACCEPT's halted form
makes of its frame. -/
theorem haltedEngineAnswers : Obligations.HaltedEngineAnswers := by
  intro s hp hb
  refine ⟨fun rest hc => execAcceptHalt_of_frame hp hb hc, fun f rest hc hf => ?_, fun i hi => ?_⟩
  · have hd : decodeFrame f ≠ .ok .status := fun h => hf (decodeFrame_eq_ok_iff.mp h).symm
    refine (execAcceptHalt_of_frame hp hb hc).trans ?_
    rw [State.dispatchHalted_eq, if_neg hd]
    rfl
  · obtain ⟨p, rfl⟩ | ⟨p, rfl⟩ | rfl := hi
    · exact exec_command_halt (.hash p) hp hb
    · exact exec_command_halt (.update p) hp hb
    · exact exec_command_halt .digest hp hb

/-- Settles O43: a step from PAD to SERIALIZE does not enter HALT, and ACCEPT in IDLE enters it by raising a
fault. -/
theorem faultEntryIsPrecise : Obligations.FaultEntryIsPrecise := by
  intro s t hne h ht
  cases hcomp : s.phase.computing with
  | true => exact absurd ht (step_computing_ne_halt hcomp h)
  | false =>
    have hp : s.phase = .idle := (s.phase.computing_eq_false_iff.mp hcomp).resolve_right hne
    obtain ⟨f, rest, c, hc, hcode, rfl⟩ := execAccept_enters_halt hp (step_idle hp ▸ h) ht
    exact ⟨hp, c, f, hcode, hc, rfl⟩

/-- Settles O44: in HALT every step is ACCEPT's halted form. -/
theorem haltIsLeftOnlyByReset : Obligations.HaltIsLeftOnlyByReset :=
  ⟨fun _ _ hp h => execAcceptHalt_frame (step_halt hp ▸ h), fun _ _ => ⟨rfl, rfl⟩, fun _ => ⟨rfl, rfl⟩⟩

/-- Settles O45: the micro-operations by `exec_computationOps`; each unit writes one element, LE, LANE or
UNITOUT. -/
theorem computationRaisesNoFault : Obligations.ComputationRaisesNoFault := by
  intro i s t hi h
  have hcases : i ∈ computationOps ∨ i = .detect ∨ (∃ n, i = .rev n) ∨ (∃ x n, i = .rotr x n)
      ∨ ∃ x n, i = .rotl x n := by
    simpa only [computationOps, List.mem_cons, List.not_mem_nil, or_false, or_assoc] using hi
  obtain hop | rfl | ⟨n, rfl⟩ | ⟨x, n, rfl⟩ | ⟨x, n, rfl⟩ := hcases
  · obtain ⟨hfault, hphase⟩ := exec_computationOps hop h
    exact ⟨hfault, fun ht => absurd ht hphase⟩
  · cases exec_detect.symm.trans h
    exact ⟨rfl, id⟩
  · obtain ⟨-, rfl⟩ := execRev_eq_next_iff.mp h
    exact ⟨rfl, id⟩
  · obtain ⟨-, rfl⟩ := execRotr_eq_next_iff.mp h
    exact ⟨rfl, id⟩
  · obtain ⟨-, rfl⟩ := execRotl_eq_next_iff.mp h
    exact ⟨rfl, id⟩

end Sys2Proof.Proofs
end
